-- ==== Sys2Proof/Word.lean ====
section
/-! DEFINITION. The word types of the SPD block (spec 00_scope R10). -/

namespace Sys2Proof

/-- A byte, 8 bits (R10). -/
abbrev Byte := BitVec 8

/-- A raw register value or a command word, an unsigned 16-bit value (R10, R66, R73). -/
abbrev U16 := BitVec 16

/-- The 7-bit device address handed to the transport beside the bytes (R21). -/
abbrev BusAddr := BitVec 7

/-- A wait in whole milliseconds, `WAIT_W` = 14 bits (R9, D12). -/
abbrev Millis := BitVec 14

/-- A reported byte count, `COUNT_W` = 8 bits (R9, D4, D8). -/
abbrev Count := BitVec 8

end Sys2Proof
end

