-- ==== Sys2Proof/Syntax.lean ====
section
/-! DEFINITION. The instructions of the SPD block: the nine rows of spec/opcode_table.json, and the closed set of
command names. -/

namespace Sys2Proof

/-- The two encoded formats of the opcode table (R65): the host's operation select OP and the bus command word
CMD16. -/
inductive Format where
  | op
  | cmd16
  deriving DecidableEq, Repr, Inhabited

/-- The closed set of the six command names (R67, R105). -/
inductive Command where
  | getStatus
  | startPeriodicMeasuring
  | readMeasurement
  | stopPeriodicMeasuring
  | measureSingleShot
  | performSelfTest
  deriving DecidableEq, Repr, Inhabited

/-- One constructor per row of the opcode table. No row has an operand (R66, R71). The OP row and the CMD16 row
READ_MEASUREMENT share a name and are told apart by the format. -/
inductive Instr where
  /-- Host operation INITIALIZE, op = 0b00 (R151). -/
  | opInitialize
  /-- Host operation SELF_TEST, op = 0b01 (R152). -/
  | opSelfTest
  /-- Host operation READ_MEASUREMENT, op = 0b10 (R153). -/
  | opReadMeasurement
  /-- Bus command GET_STATUS (R107). -/
  | cmdGetStatus
  /-- Bus command START_PERIODIC_MEASURING (R108). -/
  | cmdStartPeriodicMeasuring
  /-- Bus command READ_MEASUREMENT (R109). -/
  | cmdReadMeasurement
  /-- Bus command STOP_PERIODIC_MEASURING (R110). -/
  | cmdStopPeriodicMeasuring
  /-- Bus command MEASURE_SINGLE_SHOT (R111). -/
  | cmdMeasureSingleShot
  /-- Bus command PERFORM_SELF_TEST (R112). -/
  | cmdPerformSelfTest
  deriving DecidableEq, Repr, Inhabited

/-- The format of an instruction's row of the opcode table. -/
def Instr.format : Instr → Format
  | .opInitialize => .op
  | .opSelfTest => .op
  | .opReadMeasurement => .op
  | .cmdGetStatus => .cmd16
  | .cmdStartPeriodicMeasuring => .cmd16
  | .cmdReadMeasurement => .cmd16
  | .cmdStopPeriodicMeasuring => .cmd16
  | .cmdMeasureSingleShot => .cmd16
  | .cmdPerformSelfTest => .cmd16

/-- The CMD16 row of a command name. -/
def Command.instr : Command → Instr
  | .getStatus => .cmdGetStatus
  | .startPeriodicMeasuring => .cmdStartPeriodicMeasuring
  | .readMeasurement => .cmdReadMeasurement
  | .stopPeriodicMeasuring => .cmdStopPeriodicMeasuring
  | .measureSingleShot => .cmdMeasureSingleShot
  | .performSelfTest => .cmdPerformSelfTest

/-- What the host puts, or tries to put, before the block. The request port has two wires and carries an operation
code (R71). A command word is only an ATTEMPT: the block has no operation that sends one (R150, 95_test_vectors P6),
and the model refuses it by name (log 12). -/
inductive HostRequest where
  | operation (code : BitVec 2)
  | command (word : U16)
  deriving DecidableEq, Repr, Inhabited

end Sys2Proof
end

