-- ==== Sys2Proof/WellFormed.lean ====
section
/-! DEFINITION. Well-formedness checks: of instructions, of what a host may present, and of what a transport may
answer. -/

namespace Sys2Proof

/-- An instruction has no operand, so every constructor is well-formed (R66, R71, R105: closed sets of names). -/
def Instr.wf : Instr → Bool
  | .opInitialize => true
  | .opSelfTest => true
  | .opReadMeasurement => true
  | .cmdGetStatus => true
  | .cmdStartPeriodicMeasuring => true
  | .cmdReadMeasurement => true
  | .cmdStopPeriodicMeasuring => true
  | .cmdMeasureSingleShot => true
  | .cmdPerformSelfTest => true

/-- What a host that keeps its duties presents (R210): one of the three operation codes. The reserved code `0b11`
(R75) and a command word (R150) are ill-formed. -/
def HostRequest.wf : HostRequest → Bool
  | .operation code => code != 0b11#2
  | .command _ => false

/-- A byte sequence a `request` may return: at most `RX_MAX` = 255 bytes (R9, R42, D8). -/
def rxWf (rx : List Byte) : Bool := decide (rx.length ≤ 255)

end Sys2Proof
end

