-- ==== Sys2Proof/Decode.lean ====
section
/-! DEFINITION. The encodings of spec 30_encoding: the decoder, then the encoder. -/

namespace Sys2Proof

/-- Why a decoding is rejected. -/
inductive DecodeError where
  /-- The byte sequence ends before the instruction does. -/
  | missingBytes
  /-- A byte given for an OP code sets one of the bits 7..2: the select has two bits (R71). -/
  | operationOverTwoBits
  /-- The reserved operation code `0b11` (R75(b)). -/
  | reservedOperation
  /-- A 16-bit value that is none of the six commands (R67, R75(a)). -/
  | notACommand (word : U16)
  deriving DecidableEq, Repr, Inhabited

/-- What a decoding gives: an instruction with the bytes after it, or a rejection by name. -/
inductive DecodeResult where
  | instr (i : Instr) (rest : List Byte)
  | reject (why : DecodeError)
  deriving DecidableEq, Repr, Inhabited

/-- The high byte, `v[15:8]` (R11, R74). -/
def hiByte (v : U16) : Byte := v.extractLsb' 8 8

/-- The low byte, `v[7:0]` (R11, R74). -/
def loByte (v : U16) : Byte := v.extractLsb' 0 8

/-- The operation of a code; the code `0b11` is reserved (R71, R75(b)). -/
def decodeOperation (code : BitVec 2) : Option Instr :=
  if code = 0b00#2 then some .opInitialize
  else if code = 0b01#2 then some .opSelfTest
  else if code = 0b10#2 then some .opReadMeasurement
  else none

/-- The command a 16-bit word stands for, by the table of R67; no other word is a command. -/
def decodeCommand (w : U16) : Option Command :=
  if w = 0xE488#16 then some .getStatus
  else if w = 0x21B1#16 then some .startPeriodicMeasuring
  else if w = 0xEC05#16 then some .readMeasurement
  else if w = 0x3F86#16 then some .stopPeriodicMeasuring
  else if w = 0x219D#16 then some .measureSingleShot
  else if w = 0x3639#16 then some .performSelfTest
  else none

/-- Decoding, total on any bytes. An OP code is read from the low two bits of one byte (log 19); a command word from
two bytes, high byte first (R66). -/
def decode : Format → List Byte → DecodeResult
  | .op, b :: rest =>
    if b.extractLsb' 2 6 = 0#6 then
      match decodeOperation (b.extractLsb' 0 2) with
      | some i => .instr i rest
      | none => .reject .reservedOperation
    else .reject .operationOverTwoBits
  | .cmd16, b0 :: b1 :: rest =>
    match decodeCommand (b0 ++ b1) with
    | some c => .instr c.instr rest
    | none => .reject (.notACommand (b0 ++ b1))
  | .op, [] => .reject .missingBytes
  | .cmd16, [] => .reject .missingBytes
  | .cmd16, [_] => .reject .missingBytes

/-- `value(c)`, the 16-bit value of a command (R67, R107 to R112). -/
def commandValue : Command → U16
  | .getStatus => 0xE488#16
  | .startPeriodicMeasuring => 0x21B1#16
  | .readMeasurement => 0xEC05#16
  | .stopPeriodicMeasuring => 0x3F86#16
  | .measureSingleShot => 0x219D#16
  | .performSelfTest => 0x3639#16

/-- `ENCODE(c)`: the two wire bytes of a command, high byte first, and nothing after them (R105). -/
def encodeCommand (c : Command) : List Byte := [hiByte (commandValue c), loByte (commandValue c)]

/-- The word of an instruction as the opcode table numbers its bits. -/
def tableWord : Instr → Nat
  | .opInitialize => 0b00
  | .opSelfTest => 0b01
  | .opReadMeasurement => 0b10
  | .cmdGetStatus => 0xE488
  | .cmdStartPeriodicMeasuring => 0x21B1
  | .cmdReadMeasurement => 0xEC05
  | .cmdStopPeriodicMeasuring => 0x3F86
  | .cmdMeasureSingleShot => 0x219D
  | .cmdPerformSelfTest => 0x3639

/-- The bytes of an instruction: one byte holding the operation code (R71, log 19), or the command's two wire
bytes (R66). -/
def encode (i : Instr) : List Byte :=
  match i.format with
  | .op => [BitVec.ofNat 8 (tableWord i)]
  | .cmd16 => [hiByte (BitVec.ofNat 16 (tableWord i)), loByte (BitVec.ofNat 16 (tableWord i))]

/-- The bits a row of the opcode table has, in whole bytes. -/
def Format.tableBits : Format → Nat
  | .op => 8
  | .cmd16 => 16

/-- The instruction of a decoding that consumes every byte. -/
def DecodeResult.whole : DecodeResult → Option Instr
  | .instr i [] => some i
  | .instr _ (_ :: _) => none
  | .reject _ => none

/-- The instruction the decoder reads from a word whose bits are numbered as the opcode table numbers them: a row of
at most 8 bits is an OP row, one of 9 to 16 bits a CMD16 row. -/
def decodeTableWord (nbits w : Nat) : Option Instr :=
  if nbits ≤ 8 then
    if w < 256 then (decode .op [BitVec.ofNat 8 w]).whole else none
  else if nbits ≤ 16 then
    if w < 65536 then (decode .cmd16 [hiByte (BitVec.ofNat 16 w), loByte (BitVec.ofNat 16 w)]).whole else none
  else none

end Sys2Proof
end

