-- ==== Sys2Proof/Machine/Work.lean ====
section
/-! DEFINITION. The transient working storage of the block (spec 10_state R20, R24 to R30) and the status of a
transmit. -/

namespace Sys2Proof.Machine

/-- The two logical states of the sequencer (R24). -/
inductive Phase where
  | idle
  | busy
  deriving DecidableEq, Repr, Inhabited

/-- The steps of the sequencer, by the names of R25. -/
inductive SeqStep where
  | i0 | i1 | i2
  | s0 | s1 | s2 | s3
  | m0 | m1 | m2 | m3 | m4 | m5 | m6 | m7
  deriving DecidableEq, Repr, Inhabited

/-- What a `transmit` returns (R41). -/
inductive TxStatus where
  | ok
  | err
  deriving DecidableEq, Repr, Inhabited

/-- The frame buffer `F[0..8]` (R28), its bytes under the names of the offset table of R50. -/
structure Frame where
  co2Hi : Byte
  co2Lo : Byte
  co2Crc : Byte
  tHi : Byte
  tLo : Byte
  tCrc : Byte
  rhHi : Byte
  rhLo : Byte
  rhCrc : Byte
  deriving DecidableEq, Repr, Inhabited

/-- The transient rows of R20 and the send counter `n` of R106. They have a meaning only while `phase` is Busy. -/
structure Work where
  /-- The sequencer step (R25). -/
  step : SeqStep
  /-- The latched operation select (R26). -/
  op : BitVec 2
  /-- The frame buffer (R28). -/
  frame : Frame
  /-- The number of bytes the last request returned (R29). -/
  k : Count
  /-- The accumulator of the CRC-8 unit (R30). -/
  crc : Byte
  /-- The checksum mismatch mask: bit 0 CO2, bit 1 temperature, bit 2 humidity (R27). -/
  m : BitVec 3
  /-- The transmit error record: bit 0 first send, bit 1 second send (R27). -/
  txe : BitVec 2
  /-- How many sends the operation has made (R106, R150). -/
  n : Nat
  deriving DecidableEq, Repr, Inhabited

end Sys2Proof.Machine
end

