-- ==== Sys2Proof/Config.lean ====
section
/-! DEFINITION. What an implementation fixes, and the free values. An opaque constant has no value in any proof: a
theorem about it holds for every value of it. -/

namespace Sys2Proof

open Sys2Proof.Machine

/-- `BUS_ADDRESS`, OPEN over 0..127 (R9, D2; log 1). -/
opaque Config.busAddress : BusAddr

/-- The status of a `transmit` that no script answers: any status (R57; log 4). -/
opaque Config.freeStatus : Nat → TxStatus

/-- The bytes of a `request` that no script answers: any sequence (R57; log 4). -/
opaque Config.freeBytes : Nat → List Byte

/-- The transients once an operation has ended: unspecified (R159, R33, D9, U14; log 3). -/
opaque Config.unspecifiedWork : Nat → Work

/-- `RX_MAX`, the most bytes a `request` returns (R9, D8; log 6). -/
def Config.rxMax : Nat := 255

/-- `FRAME_LEN`, bytes requested for a measurement (R9). -/
def Config.frameLen : Nat := 9

/-- `ST_LEN`, bytes requested for a self-test (R9). -/
def Config.selfTestLen : Nat := 3

/-- `T_STOP_SETTLE`, ms (R154). -/
def Config.stopSettle : Millis := 500#14

/-- `T_SELF_TEST`, ms (R154). -/
def Config.selfTestWait : Millis := 10000#14

/-- `T_MEASURE`, ms (R154). -/
def Config.measureWait : Millis := 5000#14

/-- `T_READ_GAP`, ms (R154). -/
def Config.readGap : Millis := 1#14

end Sys2Proof
end

