-- ==== Sys2Proof/Machine/State.lean ====
section
/-! DEFINITION. The state of the machine, its responses and trace, and the reasons a step can stop. -/

namespace Sys2Proof.Machine

/-- Why the machine stops. -/
inductive Fault where
  /-- Raised by every transport call (`sendStep`, `waitStep`, `requestStep`) when the environment never returns from
  it: the block is stuck, its operation never ends (R181, R206, U13; log 5). Safe: the model stops where the hardware
  makes no further step. -/
  | transportCallNeverReturns
  deriving DecidableEq, Repr

/-- Why an instruction is given no meaning. -/
inductive Refusal where
  /-- Raised by `exec` for an instruction without a meaning. No arm raises it. Safe. -/
  | notModelled (mnemonic : String)
  /-- Raised by the fetch of a request carrying the reserved code `0b11` (R75(b), R161, D16; log 11). Safe. -/
  | reservedOperation
  /-- Raised by a host operation while `phase` is Busy (R161, R181, R207; log 11). Safe. -/
  | requestWhileBusy
  /-- Raised by GET_STATUS and START_PERIODIC_MEASURING, which no operation issues (R107, R108, U8; log 10). Safe. -/
  | commandNotIssued
  /-- Raised by the four issued commands anywhere but at their own step of R25, a host's attempt to send one among
  it (R150; log 9, 12). Safe. -/
  | commandOutOfSequence
  /-- Raised by the fetch of a host's attempt to send a word that is no command (R67, R75(a); log 12). Safe. -/
  | notACommand (word : U16)
  deriving DecidableEq, Repr

/-- The three errors that end an operation, with what each records (R170, R172 to R174). TransportError ends nothing
and is a bit of `txe`. -/
inductive OpError where
  | shortRead (count : Count)
  | checksumMismatch (mask : BitVec 3)
  | unexpectedResponseLength (count : Count)
  deriving DecidableEq, Repr

/-- The response of an operation, the sum type of R72. The two float results are carried as exact rationals (R139,
D6); their images stand in `Response.port`. -/
inductive Response where
  | initDone (txe0 : Bool)
  | selfTestOk (txe0 : Bool)
  | selfTestUnexpectedLength (count : Count) (txe0 : Bool)
  | measOk (co2 temperature : Rat) (relativeHumidity : BitVec 8) (txe : BitVec 2)
  | measShortRead (count : Count) (txe : BitVec 2)
  | measChecksumMismatch (mask : BitVec 3) (txe : BitVec 2)
  deriving DecidableEq, Repr

/-- One event of the observable trace (R13): a transport call with its arguments and answer, or a response. -/
inductive Event where
  | tx (addr : BusAddr) (bytes : List Byte) (status : TxStatus)
  | wait (ms : Millis)
  | rx (addr : BusAddr) (count : Nat) (bytes : List Byte)
  | resp (r : Response)
  deriving DecidableEq, Repr

/-- What the transport and the device behind it will answer: the environment's, not the block's (R8, R57). -/
structure Transport where
  /-- Scripted statuses of the coming `transmit` calls; past the script a free value (log 4). -/
  statuses : List TxStatus
  /-- Scripted answers of the coming `request` calls; past the script a free value (log 4). -/
  answers : List (List Byte)
  /-- `none`: every call returns. `some c`: `c` more calls return and the one after never does (D22, U13; log 5). -/
  returnsLeft : Option Nat
  deriving DecidableEq, Repr

/-- The state: the block (`busAddress`, `phase`, `work`: R20), the host (`requests`), the transport, and what has been
observed (`trace`: R13). -/
structure State where
  /-- The one persistent register (R21). -/
  busAddress : BusAddr
  /-- Idle or Busy (R24). -/
  phase : Phase
  /-- The transient working storage (R20, R25 to R30). -/
  work : Work
  /-- What the host will present, the first now (R77, R150; log 13). The block holds no queue (R207): this is the
  host's list. -/
  requests : List HostRequest
  /-- The environment's answers. -/
  transport : Transport
  /-- The observable trace, oldest first (R13; log 14). -/
  trace : List Event
  /-- The model's own counter of free values (log 4). -/
  drawn : Nat
  deriving DecidableEq, Repr

/-- The outcome of a step or of a meaning. -/
abbrev Result := Host.Outcome State Fault Refusal

/-- The transients right after reset. The spec leaves every one unspecified (R33); zero is a DESIGN CHOICE (log 2). -/
def Work.reset : Work :=
  { step := .i0, op := 0#2, frame := ⟨0#8, 0#8, 0#8, 0#8, 0#8, 0#8, 0#8, 0#8, 0#8⟩, k := 0#8, crc := 0#8, m := 0#3,
    txe := 0#2, n := 0 }

/-- The state right after reset (R33, R200): the address from its parameter, Idle, no transport call made. The
environment's lists are empty and every call returns (log 4, 5, 13). -/
def State.reset : State :=
  { busAddress := Config.busAddress, phase := .idle, work := Work.reset, requests := [],
    transport := { statuses := [], answers := [], returnsLeft := none }, trace := [], drawn := 0 }

end Sys2Proof.Machine
end

