-- ==== Sys2Proof/Machine/Flags.lean ====
section
/-! DEFINITION. The two transient flag groups (spec 10_state R27): the mismatch mask `m` and the transmit error record
`txe`. No other action sets them. -/

namespace Sys2Proof.Machine

/-- Bit `i` of `v` becomes `b`; an index past the width changes nothing. -/
def setBit {w : Nat} (v : BitVec w) (i : Nat) (b : Bool) : BitVec w :=
  (v &&& ~~~(1#w <<< i)) ||| (if b then 1#w <<< i else 0#w)

/-- The failure of a transmit as a bit. -/
def TxStatus.isErr : TxStatus → Bool
  | .ok => false
  | .err => true

/-- `txe[n] <- (e = err)`, then `n <- n + 1` (R106). -/
def State.recordSend (e : TxStatus) (s : State) : State :=
  { s with work := { s.work with txe := setBit s.work.txe s.work.n e.isErr, n := s.work.n + 1 } }

/-- `m[i] <- b` (R125). -/
def State.setMismatch (i : Nat) (b : Bool) (s : State) : State :=
  { s with work := { s.work with m := setBit s.work.m i b } }

/-- `txe[0]`, as the responses of INITIALIZE and SELF_TEST carry it (R72). -/
def State.txe0 (s : State) : Bool := s.work.txe.getLsbD 0

/-- The record of one send from its status; bit 1 stays 0 (R72). -/
def txeOne (e0 : TxStatus) : BitVec 2 := setBit 0#2 0 e0.isErr

/-- The record of two sends from their statuses (R27). -/
def txeTwo (e0 e1 : TxStatus) : BitVec 2 := setBit (setBit 0#2 0 e0.isErr) 1 e1.isErr

end Sys2Proof.Machine
end

