-- ==== Sys2Proof/Machine/Operands.lean ====
section
/-! DEFINITION. Operand assembly (spec 30_encoding 2, 42_frame_parser 2): the frame buffer by index, filling it,
the three triples, and the 16-bit raw values. No instruction has an operand field (R23, R66, R71). -/

namespace Sys2Proof.Machine

/-- A triple `(value_hi, value_lo, crc)` (R69). -/
structure Triple where
  hi : Byte
  lo : Byte
  crc : Byte
  deriving DecidableEq, Repr

/-- `F[i]`; no index outside 0..8 exists (R28). -/
def Frame.read (f : Frame) : Nat → Option Byte
  | 0 => some f.co2Hi
  | 1 => some f.co2Lo
  | 2 => some f.co2Crc
  | 3 => some f.tHi
  | 4 => some f.tLo
  | 5 => some f.tCrc
  | 6 => some f.rhHi
  | 7 => some f.rhLo
  | 8 => some f.rhCrc
  | _ + 9 => none

/-- `F[i] <- rx[i]` for every `i < min(len(rx), 9)`; the other bytes are not written (R28, R120) and keep what they held
(log 22). -/
def Frame.fill (f : Frame) (rx : List Byte) : Frame :=
  { co2Hi := rx[0]?.getD f.co2Hi, co2Lo := rx[1]?.getD f.co2Lo, co2Crc := rx[2]?.getD f.co2Crc,
    tHi := rx[3]?.getD f.tHi, tLo := rx[4]?.getD f.tLo, tCrc := rx[5]?.getD f.tCrc,
    rhHi := rx[6]?.getD f.rhHi, rhLo := rx[7]?.getD f.rhLo, rhCrc := rx[8]?.getD f.rhCrc }

/-- The CO2 triple of `EXTRACT` (R121). -/
def Frame.co2 (f : Frame) : Triple := ⟨f.co2Hi, f.co2Lo, f.co2Crc⟩

/-- The temperature triple of `EXTRACT` (R121). -/
def Frame.temperature (f : Frame) : Triple := ⟨f.tHi, f.tLo, f.tCrc⟩

/-- The relative-humidity triple of `EXTRACT` (R121). -/
def Frame.humidity (f : Frame) : Triple := ⟨f.rhHi, f.rhLo, f.rhCrc⟩

/-- `RAW(hi, lo)` = `hi * 256 + lo`, unsigned (R73, R122). -/
def raw (hi lo : Byte) : U16 := hi ++ lo

/-- The raw value of a triple. -/
def Triple.raw (t : Triple) : U16 := Sys2Proof.Machine.raw t.hi t.lo

/-- The number of bytes received as `k` holds it (R29). -/
def byteCount (rx : List Byte) : Count := BitVec.ofNat 8 rx.length

end Sys2Proof.Machine
end

