-- ==== Sys2Proof/Machine/Ops.lean ====
section
/-! DEFINITION. The shared operations: the three transport primitives (spec 20_memory R40 to R43), accepting an
operation (R150), returning a response (R159), and `raise` (R178). -/

namespace Sys2Proof.Machine

/-- The next transport call returns (D22, U13; log 5). -/
def State.callReturns (s : State) : Bool := s.transport.returnsLeft != some 0

/-- The next `c` transport calls return. -/
def State.callsReturn (c : Nat) (s : State) : Bool :=
  match s.transport.returnsLeft with
  | none => true
  | some r => decide (c ≤ r)

/-- The status the environment gives the next `transmit` (R41, R57): the script's, past the script a free value. -/
def State.nextStatus (s : State) : TxStatus := s.transport.statuses.head?.getD (Config.freeStatus s.drawn)

/-- The bytes the environment gives the next `request` (R42, R57), at most `RX_MAX` of them (log 6). -/
def State.nextBytes (s : State) : List Byte :=
  (s.transport.answers.head?.getD (Config.freeBytes s.drawn)).take Config.rxMax

/-- One call has returned. -/
def Transport.spend (t : Transport) : Transport := { t with returnsLeft := t.returnsLeft.map (· - 1) }

/-- The state when `transmit(bus_address, bytes)` has returned `nextStatus` (R41). -/
def State.transmit (bytes : List Byte) (s : State) : State :=
  { s with
    transport := { s.transport.spend with statuses := s.transport.statuses.tail }
    trace := s.trace ++ [.tx s.busAddress bytes s.nextStatus]
    drawn := s.drawn + 1 }

/-- The state when `request(bus_address, count)` has returned `nextBytes` (R42). -/
def State.request (count : Nat) (s : State) : State :=
  { s with
    transport := { s.transport.spend with answers := s.transport.answers.tail }
    trace := s.trace ++ [.rx s.busAddress count s.nextBytes]
    drawn := s.drawn + 1 }

/-- The state when `wait(ms)` has returned (R43): recorded, with no duration (R209). -/
def State.delay (ms : Millis) (s : State) : State :=
  { s with transport := s.transport.spend, trace := s.trace ++ [.wait ms], drawn := s.drawn + 1 }

/-- `step <- next` (R12). -/
def State.goto (next : SeqStep) (s : State) : State := { s with work := { s.work with step := next } }

/-- Acceptance of an operation (R150): latch `op`, clear `txe`, reset `n`, Busy, first step. -/
def State.accept (code : BitVec 2) (first : SeqStep) (s : State) : State :=
  { s with phase := .busy, work := { s.work with step := first, op := code, txe := 0#2, n := 0 } }

/-- The end of an operation (R159, R211): the response is returned once, `phase` becomes Idle, and every transient
loses its meaning: a free value takes its place (log 3). -/
def State.respond (r : Response) (s : State) : State :=
  { s with phase := .idle, work := Config.unspecifiedWork s.drawn, trace := s.trace ++ [.resp r], drawn := s.drawn + 1 }

/-- The failure response of an error, carrying the current `txe` (R170, R178). -/
def State.failure (e : OpError) (s : State) : Response :=
  match e with
  | .shortRead k => .measShortRead k s.work.txe
  | .checksumMismatch m => .measChecksumMismatch m s.work.txe
  | .unexpectedResponseLength k => .selfTestUnexpectedLength k s.txe0

/-- `raise <Error>(info)` (R178): the failure response is returned and the block is Idle. Nothing is saved, there is no
handler, and there is no return from it to be made (R179). -/
def State.raise (e : OpError) (s : State) : State := s.respond (s.failure e)

/-- `Send(c)` at one step, going on to `next` whatever the status (R106). -/
def State.sendStep (c : Command) (next : SeqStep) (s : State) : Result :=
  if s.callReturns then .next (((s.transmit (encodeCommand c)).recordSend s.nextStatus).goto next)
  else .fault .transportCallNeverReturns

/-- `Wait(ms)` at one step (R43). -/
def State.waitStep (ms : Millis) (next : SeqStep) (s : State) : Result :=
  if s.callReturns then .next ((s.delay ms).goto next) else .fault .transportCallNeverReturns

/-- `k <- len(rx)` (R29). -/
def State.storeCount (rx : List Byte) (s : State) : State := { s with work := { s.work with k := byteCount rx } }

/-- `F[i] <- rx[i]` (R28). -/
def State.storeFrame (rx : List Byte) (s : State) : State :=
  { s with work := { s.work with frame := s.work.frame.fill rx } }

/-- Step S2: `MemRead(bus_address, 3)`, setting `k`; the bytes are not stored (R28, R127). -/
def State.requestSelfTest (s : State) : Result :=
  if s.callReturns then .next (((s.request Config.selfTestLen).storeCount s.nextBytes).goto .s3)
  else .fault .transportCallNeverReturns

/-- Step M4: `MemRead(bus_address, 9)`, setting `k` and filling `F` (R28, R120). -/
def State.requestFrame (s : State) : Result :=
  if s.callReturns then
    .next ((((s.request Config.frameLen).storeCount s.nextBytes).storeFrame s.nextBytes).goto .m5)
  else .fault .transportCallNeverReturns

/-- Go on with `f` from a next state; a fault or a refusal ends the run. -/
def andThen (o : Result) (f : State → Result) : Result :=
  match o with
  | .next s => f s
  | .fault r => .fault r
  | .refused r => .refused r

end Sys2Proof.Machine
end

