-- ==== Sys2Proof/Machine/Commands.lean ====
section
/-! DEFINITION. The meanings of the six CMD16 rows (spec 41_command_encoder R106 to R112): `Send` of the command at
the step of R25 that issues it. -/

namespace Sys2Proof.Machine

/-- The sequencer is at a step: Busy, and `step` is that one (R25). -/
def State.atStep (p : SeqStep) (s : State) : Bool := s.phase == .busy && s.work.step == p

/-- `Send(c)` at the step that issues `c`; nowhere else is a command sent (R113, R150; log 9). -/
def State.issue (p : SeqStep) (c : Command) (next : SeqStep) (s : State) : Result :=
  if s.atStep p then s.sendStep c next else .refused .commandOutOfSequence

/-- GET_STATUS: "Issued by no operation of the block", "a model gives it an encoding and nothing else" (R107, U8;
log 10). -/
def execCmdGetStatus (_s : State) : Result := .refused .commandNotIssued

/-- START_PERIODIC_MEASURING: "Issued by no operation of the block" (R108, U8; log 10). -/
def execCmdStartPeriodicMeasuring (_s : State) : Result := .refused .commandNotIssued

/-- READ_MEASUREMENT, the second send of the operation of that name, step M2 (R109). -/
def execCmdReadMeasurement (s : State) : Result := s.issue .m2 .readMeasurement .m3

/-- STOP_PERIODIC_MEASURING, the only send of INITIALIZE, step I0 (R110). -/
def execCmdStopPeriodicMeasuring (s : State) : Result := s.issue .i0 .stopPeriodicMeasuring .i1

/-- MEASURE_SINGLE_SHOT, the first send of the operation READ_MEASUREMENT, step M0 (R111). -/
def execCmdMeasureSingleShot (s : State) : Result := s.issue .m0 .measureSingleShot .m1

/-- PERFORM_SELF_TEST, the only send of SELF_TEST, step S0 (R112). -/
def execCmdPerformSelfTest (s : State) : Result := s.issue .s0 .performSelfTest .s1

end Sys2Proof.Machine
end

