-- ==== Sys2Proof/Machine/Crc8.lean ====
section
/-! DEFINITION. The CRC-8 unit (spec 40_crc8): polynomial 0x31, initial value 0xFF, no reflection, no final XOR. -/

namespace Sys2Proof.Machine

/-- `CRC8_BIT(c)`: one shift step; the high bit is tested before the shift (R91). -/
def crc8Bit (c : Byte) : Byte := if c.msb then (c <<< 1) ^^^ 0x31#8 else c <<< 1

/-- `n` shift steps. -/
def crc8Shift : Nat → Byte → Byte
  | 0, c => c
  | n + 1, c => crc8Shift n (crc8Bit c)

/-- One byte is consumed: XORed in whole, then eight shifts (R92, R93). -/
def crc8Byte (acc b : Byte) : Byte := crc8Shift 8 (acc ^^^ b)

/-- `CRC8(b0, b1)`, `b0` first (R92). -/
def crc8 (b0 b1 : Byte) : Byte := crc8Byte (crc8Byte 0xFF#8 b0) b1

/-- `CRC_CHECK(hi, lo, crc_rx)` (R94). -/
def crcCheck (hi lo crcRx : Byte) : Bool := crc8 hi lo == crcRx

/-- The check of a triple (R123). -/
def Triple.check (t : Triple) : Bool := crcCheck t.hi t.lo t.crc

/-- The accumulator is set. -/
def State.setCrc (c : Byte) (s : State) : State := { s with work := { s.work with crc := c } }

/-- The accumulator consumes a byte. -/
def State.crcConsume (b : Byte) (s : State) : State := s.setCrc (crc8Byte s.work.crc b)

/-- The unit run on the two value bytes of a triple: the accumulator is set to 0xFF and consumes them (R30, R92). -/
def State.runCrc (t : Triple) (s : State) : State := ((s.setCrc 0xFF#8).crcConsume t.hi).crcConsume t.lo

/-- The check of field `i`: the unit's accumulator against the received byte, the negation into `m[i]` (R94, R125). -/
def State.checkField (i : Nat) (t : Triple) (s : State) : State :=
  (s.runCrc t).setMismatch i ((s.runCrc t).work.crc != t.crc)

end Sys2Proof.Machine
end

