-- ==== Sys2Proof/Machine/NumericDecoder.lean ====
section
/-! DEFINITION. The numeric decoder (spec 43_numeric_decoder), the binary32 image of its results, and the port image
of a response (spec 30_encoding R72). -/

namespace Sys2Proof.Machine

/-- `DEC_CO2(raw)` = `raw` ppm (R136). -/
def decCo2 (r : U16) : Rat := (r.toNat : Rat)

/-- `DEC_T(raw)` = `-45 + 175 * raw / 65535` degrees Celsius, exact (R137, C1). -/
def decT (r : U16) : Rat := -45 + 175 * (r.toNat : Rat) / 65535

/-- `DEC_RH(raw)` = `floor(100 * raw / 65535)` percent (R138, R140). -/
def decRh (r : U16) : BitVec 8 := BitVec.ofNat 8 (100 * r.toNat / 65535)

/-- `num / den` rounded to the nearest integer, ties to even. -/
def roundHalfEven (num den : Nat) : Nat :=
  if 2 * (num % den) < den then num / den
  else if den < 2 * (num % den) then num / den + 1
  else num / den + num / den % 2

/-- `floor(log2(num / den))` of a positive fraction. -/
def floorLog2 (num den : Nat) : Int :=
  let e : Int := (num.log2 : Int) - (den.log2 : Int)
  if den * 2 ^ e.toNat ≤ num * 2 ^ (-e).toNat then e else e - 1

/-- The magnitude bits of a positive fraction in binary32: exponent field and fraction in one number, rounded once to
nearest, ties to even, in units of the last place `2^(e-23)` with `e` at least -126; past the largest finite value,
infinity. -/
def binary32Magnitude (num den : Nat) : Nat :=
  let e := max (floorLog2 num den) (-126)
  let sh := 23 - e
  let mant := roundHalfEven (num * 2 ^ sh.toNat) (den * 2 ^ (-sh).toNat)
  min ((e + 126).toNat * 2 ^ 23 + mant) 0x7F800000

/-- `to_float(q)` in the default `FLOAT_FMT`: the IEEE 754 binary32 value nearest to the exact rational, ties to even,
one rounding (R139, D6; log 15). -/
def toFloat (q : Rat) : BitVec 32 :=
  if q.num = 0 then 0#32
  else BitVec.ofNat 32 ((if q.num < 0 then 2 ^ 31 else 0) + binary32Magnitude q.num.natAbs q.den)

/-- The port-level record RESP (the table of R72). -/
structure RespPort where
  status : BitVec 2
  txe : BitVec 2
  count : BitVec 8
  crcFail : BitVec 3
  co2 : BitVec 32
  temperature : BitVec 32
  relativeHumidity : BitVec 8
  deriving DecidableEq, Repr

/-- The 2-bit `txe` field of an operation with one send (R72). -/
def txeField (txe0 : Bool) : BitVec 2 := if txe0 then 1#2 else 0#2

/-- The port image of a response; a field whose "valid when" condition is false is driven to zero (R72, D19). Status
codes: 0 OK, 1 ShortRead, 2 ChecksumMismatch, 3 UnexpectedResponseLength (R170). -/
def Response.port : Response → RespPort
  | .initDone txe0 => ⟨0, txeField txe0, 0, 0, 0, 0, 0⟩
  | .selfTestOk txe0 => ⟨0, txeField txe0, 0, 0, 0, 0, 0⟩
  | .selfTestUnexpectedLength count txe0 => ⟨3, txeField txe0, count, 0, 0, 0, 0⟩
  | .measOk co2 t rh txe => ⟨0, txe, 0, 0, toFloat co2, toFloat t, rh⟩
  | .measShortRead count txe => ⟨1, txe, count, 0, 0, 0, 0⟩
  | .measChecksumMismatch mask txe => ⟨2, txe, 0, mask, 0, 0, 0⟩

end Sys2Proof.Machine
end

