-- ==== Sys2Proof/Machine/FrameParser.lean ====
section
/-! DEFINITION. The response frame parser (spec 42_frame_parser), as the steps M5 to M7 and S3 of the sequencer and as
the pure functions of the spec. -/

namespace Sys2Proof.Machine

/-- The mismatch mask of a frame (R125). -/
def Frame.mismatch (f : Frame) : BitVec 3 :=
  setBit (setBit (setBit 0#3 0 (!f.co2.check)) 1 (!f.temperature.check)) 2 (!f.humidity.check)

/-- What `PARSE_FRAME` gives: three validated raw values, or one of two errors (R126). -/
inductive Parsed where
  | values (co2 t rh : U16)
  | shortRead (count : Count)
  | checksumMismatch (mask : BitVec 3)
  deriving DecidableEq, Repr

/-- `PARSE_FRAME` on the nine bytes of a frame: the checksums, all or nothing (R124, R125). -/
def Frame.parse (f : Frame) : Parsed :=
  if f.mismatch = 0#3 then .values f.co2.raw f.temperature.raw f.humidity.raw else .checksumMismatch f.mismatch

/-- `PARSE_FRAME(rx)` (R126): the length first, then the checksums; bytes past the ninth are ignored (R128). -/
def parseFrame : List Byte → Parsed
  | b0 :: b1 :: b2 :: b3 :: b4 :: b5 :: b6 :: b7 :: b8 :: _ => Frame.parse ⟨b0, b1, b2, b3, b4, b5, b6, b7, b8⟩
  | rx => .shortRead (byteCount rx)

/-- The response of READ_MEASUREMENT to a received sequence, as R153's pseudocode forms it. -/
def measureResponse (rx : List Byte) (txe : BitVec 2) : Response :=
  match parseFrame rx with
  | .values c t h => .measOk (decCo2 c) (decT t) (decRh h) txe
  | .shortRead k => .measShortRead k txe
  | .checksumMismatch m => .measChecksumMismatch m txe

/-- `LEN_CHECK3(rx)` as the response of SELF_TEST: success iff exactly three bytes came (R127, R152). -/
def selfTestResponse (rx : List Byte) (txe0 : Bool) : Response :=
  if rx.length = 3 then .selfTestOk txe0 else .selfTestUnexpectedLength (byteCount rx) txe0

/-- Step S3: the length check of a self-test (R127, R174). -/
def State.checkSelfTest (s : State) : State :=
  if s.work.k = 3#8 then s.respond (.selfTestOk s.txe0) else s.raise (.unexpectedResponseLength s.work.k)

/-- Step M5: the length gate (R120, R172). -/
def State.gateLength (s : State) : State :=
  if s.work.k < 9#8 then s.raise (.shortRead s.work.k) else s.goto .m6

/-- All three checks of step M6, always all three, in frame order (R123; log 16). -/
def State.checkFields (s : State) : State :=
  ((s.checkField 0 s.work.frame.co2).checkField 1 s.work.frame.temperature).checkField 2 s.work.frame.humidity

/-- Step M6: validation, all or nothing (R124, R125, R173). -/
def State.validateFrame (s : State) : State :=
  if s.checkFields.work.m = 0#3 then s.checkFields.goto .m7
  else s.checkFields.raise (.checksumMismatch s.checkFields.work.m)

/-- Step M7: decode the three raw values and respond (R135, R144). DESIGN CHOICE (log 21): R20 has no row that holds the
raw values between M6 and M7 and R28 reads `F` only at M6, so the model forms them from the unchanged `F` again. -/
def State.deliverMeasurement (s : State) : State :=
  s.respond (.measOk (decCo2 s.work.frame.co2.raw) (decT s.work.frame.temperature.raw)
    (decRh s.work.frame.humidity.raw) s.work.txe)

end Sys2Proof.Machine
end

