-- ==== Sys2Proof/Machine/Sequencer.lean ====
section
/-! DEFINITION. The operation sequencer: one step of the table of spec 10_state R25, and the meanings of the three OP
rows as whole runs of their columns (spec 44_operations R150 to R153). -/

namespace Sys2Proof.Machine

/-- The steps that make no transport call: I2, S3, M5, M6, M7 (R25). The others are left as they are. -/
def State.localStep (s : State) : State :=
  match s.work.step with
  | .i2 => s.respond (.initDone s.txe0)
  | .s3 => s.checkSelfTest
  | .m5 => s.gateLength
  | .m6 => s.validateFrame
  | .m7 => s.deliverMeasurement
  | .i0 | .i1 | .s0 | .s1 | .s2 | .m0 | .m1 | .m2 | .m3 | .m4 => s

/-- One step of the sequencer while Busy: the row of R25 that `step` names. -/
def seqStep (s : State) : Result :=
  match s.work.step with
  | .i0 => execCmdStopPeriodicMeasuring s
  | .i1 => s.waitStep Config.stopSettle .i2
  | .s0 => execCmdPerformSelfTest s
  | .s1 => s.waitStep Config.selfTestWait .s2
  | .s2 => s.requestSelfTest
  | .m0 => execCmdMeasureSingleShot s
  | .m1 => s.waitStep Config.measureWait .m2
  | .m2 => execCmdReadMeasurement s
  | .m3 => s.waitStep Config.readGap .m4
  | .m4 => s.requestFrame
  | .i2 | .s3 | .m5 | .m6 | .m7 => .next s.localStep

/-- `c` steps of the sequencer. -/
def seqRun : Nat → State → Result
  | 0, s => .next s
  | c + 1, s => andThen (seqStep s) (seqRun c)

/-- The steps after the last transport call, at most `c` of them, until the response has been returned. -/
def State.settle : Nat → State → State
  | 0, s => s
  | c + 1, s =>
    match s.phase with
    | .idle => s
    | .busy => State.settle c s.localStep

/-- A whole operation (R150, R155, R159): accepted only when Idle; then its `calls` transport calls in order; then
its `locals` steps up to the response. One step of the model is one operation (log 8). -/
def runOperation (code : BitVec 2) (first : SeqStep) (calls locals : Nat) (s : State) : Result :=
  match s.phase with
  | .busy => .refused .requestWhileBusy
  | .idle => andThen (seqRun calls (s.accept code first)) (fun t => .next (t.settle locals))

/-- INITIALIZE (R151): steps I0 and I1, then I2. -/
def execOpInitialize (s : State) : Result := runOperation 0b00#2 .i0 2 1 s

/-- SELF_TEST (R152): steps S0 to S2, then S3. -/
def execOpSelfTest (s : State) : Result := runOperation 0b01#2 .s0 3 1 s

/-- READ_MEASUREMENT (R153): steps M0 to M4, then M5 to M7. -/
def execOpReadMeasurement (s : State) : Result := runOperation 0b10#2 .m0 5 3 s

end Sys2Proof.Machine
end

