-- ==== Sys2Proof/Machine/Dispatch.lean ====
section
/-! DEFINITION. Which meaning each instruction has. -/

namespace Sys2Proof.Machine

def exec (i : Instr) (s : State) : Host.Outcome State Fault Refusal :=
  match i with
  | .opInitialize => Sys2Proof.Machine.execOpInitialize s
  | .opSelfTest => Sys2Proof.Machine.execOpSelfTest s
  | .opReadMeasurement => Sys2Proof.Machine.execOpReadMeasurement s
  | .cmdGetStatus => Sys2Proof.Machine.execCmdGetStatus s
  | .cmdStartPeriodicMeasuring => Sys2Proof.Machine.execCmdStartPeriodicMeasuring s
  | .cmdReadMeasurement => Sys2Proof.Machine.execCmdReadMeasurement s
  | .cmdStopPeriodicMeasuring => Sys2Proof.Machine.execCmdStopPeriodicMeasuring s
  | .cmdMeasureSingleShot => Sys2Proof.Machine.execCmdMeasureSingleShot s
  | .cmdPerformSelfTest => Sys2Proof.Machine.execCmdPerformSelfTest s

end Sys2Proof.Machine
end

