-- ==== Sys2Proof/Machine/Fetch.lean ====
section
/-! DEFINITION. What the next step runs: the request the host presents while the block is Idle, the sequencer's next
step while it is Busy. -/

namespace Sys2Proof.Machine

/-- What the next step has before it. -/
inductive Fetched where
  /-- Idle, and the host presents nothing (R187). -/
  | nothing
  /-- Busy: the sequencer goes on; a presented request is held off (R207). -/
  | sequencer
  /-- Idle, and the host presents something the block does not accept (R161, P6). -/
  | refuse (r : Refusal)
  /-- Idle, and the host presents instruction `i`; `s` is the state with the request taken. -/
  | run (i : Instr) (s : State)
  deriving DecidableEq, Repr

/-- The bytes of a presented request as the decoder reads them. -/
def decodeRequest : HostRequest → DecodeResult
  | .operation code => Sys2Proof.decode .op [code.setWidth 8]
  | .command word => Sys2Proof.decode .cmd16 [hiByte word, loByte word]

/-- The refusal of a rejected request. A request port gives whole bytes and two-bit codes, so the first two do not
occur; they read as the reserved code. -/
def refusalOf : DecodeError → Refusal
  | .missingBytes => .reservedOperation
  | .operationOverTwoBits => .reservedOperation
  | .reservedOperation => .reservedOperation
  | .notACommand w => .notACommand w

/-- What the next step runs (R150, R187, R207). -/
def State.fetch (s : State) : Fetched :=
  match s.phase with
  | .busy => .sequencer
  | .idle =>
    match s.requests with
    | [] => .nothing
    | q :: rest =>
      match decodeRequest q with
      | .instr i _ => .run i { s with requests := rest }
      | .reject why => .refuse (refusalOf why)

/-- The host presents `q` next, in the place of what it would have presented, and the block is Idle. -/
def State.present (q : HostRequest) (s : State) : State :=
  { s with phase := .idle, requests := q :: s.requests.tail }

/-- The sequencer stands at step `p` of the operation `code`, `n` sends made. -/
def State.seat (code : BitVec 2) (p : SeqStep) (n : Nat) (s : State) : State :=
  { s with phase := .busy, work := { s.work with step := p, op := code, n := n } }

/-- The place of a command word: the step of R25 that issues it; a word no step issues can only be a host's attempt. -/
def State.placeCommand (w : U16) (s : State) : State :=
  match decodeCommand w with
  | some .stopPeriodicMeasuring => s.seat 0b00#2 .i0 0
  | some .performSelfTest => s.seat 0b01#2 .s0 0
  | some .measureSingleShot => s.seat 0b10#2 .m0 0
  | some .readMeasurement => s.seat 0b10#2 .m2 1
  | some .getStatus => s.present (.command w)
  | some .startPeriodicMeasuring => s.present (.command w)
  | none => s.present (.command w)

/-- The place of an instruction word numbered as the opcode table numbers it (log 13). -/
def State.placeWord (s : State) (nbits w : Nat) : State :=
  if nbits ≤ 8 then s.present (.operation (BitVec.ofNat 2 w)) else s.placeCommand (BitVec.ofNat 16 w)

end Sys2Proof.Machine
end

