-- ==== Sys2Proof/Machine/Step.lean ====
section
/-! DEFINITION. One step of the machine. -/

namespace Sys2Proof.Machine

/-- One step: while Idle, the whole operation the host presents, or nothing where it presents none; while Busy, one
step of the sequencer (R24, R150, R187, R207; log 8). -/
def step (s : State) : Host.Outcome State Fault Refusal :=
  match s.fetch with
  | .nothing => .next s
  | .sequencer => seqStep s
  | .refuse r => .refused r
  | .run i t => exec i t

/-- `s` with the instruction of that word placed where the next step finds it: an operation code on the host's request
port, a command word at the step of the sequencer that issues it (log 13). -/
def State.withFetchWord (s : State) (nbits w : Nat) : State := s.placeWord nbits w

end Sys2Proof.Machine
end

