-- ==== Sys2Proof/Safety.lean ====
section
/-! DEFINITION. The terms the claims use: what a lawful trace is, what a consistent sequencer is, what the trace of an
operation is, what the environment answers a whole operation, and the value of a binary32 image. -/

namespace Sys2Proof.Machine

/-- The four byte sequences the block may hand to `transmit` (R113). -/
def sentBytes : List (List Byte) :=
  [[0x3F#8, 0x86#8], [0x36#8, 0x39#8], [0x21#8, 0x9D#8], [0xEC#8, 0x05#8]]

/-- What a response may carry: the recorded values of R170 and the ranges of R141. -/
def Response.Lawful : Response → Prop
  | .initDone _ => True
  | .selfTestOk _ => True
  | .selfTestUnexpectedLength count _ => count ≠ 3#8
  | .measOk co2 t rh _ => 0 ≤ co2 ∧ co2 ≤ 65535 ∧ -45 ≤ t ∧ t ≤ 130 ∧ rh ≤ 100#8
  | .measShortRead count _ => count < 9#8
  | .measChecksumMismatch mask _ => mask ≠ 0#3

/-- An event a block at address `a` may show: one of the four commands to `a` (R113), one of the four waits (R154), a
request of 9 or 3 bytes from `a` answered by at most 255 (R42, R48), a response of R72. -/
def Event.Lawful (a : BusAddr) : Event → Prop
  | .tx addr bytes _ => addr = a ∧ bytes ∈ sentBytes
  | .wait ms => ms ∈ [500#14, 10000#14, 5000#14, 1#14]
  | .rx addr count bytes => addr = a ∧ (count = 9 ∨ count = 3) ∧ bytes.length ≤ 255
  | .resp r => r.Lawful

/-- Every event of the trace is lawful for the block's address. -/
def State.Lawful (s : State) : Prop := ∀ e ∈ s.trace, e.Lawful s.busAddress

/-- The operation whose column of R25 a step stands in, by its code (R26, R71). -/
def SeqStep.code : SeqStep → BitVec 2
  | .i0 | .i1 | .i2 => 0b00#2
  | .s0 | .s1 | .s2 | .s3 => 0b01#2
  | .m0 | .m1 | .m2 | .m3 | .m4 | .m5 | .m6 | .m7 => 0b10#2

/-- How many sends precede a step in its column of R25 (R106). -/
def SeqStep.sends : SeqStep → Nat
  | .i0 | .s0 | .m0 => 0
  | .i1 | .i2 | .s1 | .s2 | .s3 | .m1 | .m2 => 1
  | .m3 | .m4 | .m5 | .m6 | .m7 => 2

/-- The last event is an answered request of `count` bytes, and `k` is the number of bytes it brought (R29). -/
def State.Received (s : State) (count : Nat) (rx : List Byte) : Prop :=
  s.trace.getLast? = some (.rx s.busAddress count rx) ∧ rx.length ≤ 255 ∧ s.work.k = byteCount rx

/-- What holds of the transients at a Busy state: the latched operation and the send counter fit the step; `txe` has
no bit of a send not yet made; after a request `k` and `F` are what it brought; the gates of M5 and M6 have been passed
by the steps behind them (R25, R27, R28, R29). -/
def State.Sequenced (s : State) : Prop :=
  s.phase = .busy →
    s.work.op = s.work.step.code ∧
    s.work.n = s.work.step.sends ∧
    (∀ i : Nat, s.work.step.sends ≤ i → s.work.txe.getLsbD i = false) ∧
    (s.work.step = .s3 → ∃ rx, s.Received 3 rx) ∧
    (s.work.step = .m5 → ∃ rx, s.Received 9 rx ∧ s.work.frame.fill rx = s.work.frame) ∧
    (s.work.step = .m6 → ∃ rx, s.Received 9 rx ∧ 9 ≤ rx.length ∧ s.work.frame.fill rx = s.work.frame) ∧
    (s.work.step = .m7 →
      (∃ rx, s.Received 9 rx ∧ 9 ≤ rx.length ∧ s.work.frame.fill rx = s.work.frame) ∧
        s.work.frame.mismatch = 0#3)

/-- The trace of one INITIALIZE (R151). -/
def initTrace (a : BusAddr) (e : TxStatus) : List Event :=
  [.tx a [0x3F#8, 0x86#8] e, .wait 500#14, .resp (.initDone e.isErr)]

/-- The trace of one SELF_TEST (R152). -/
def selfTestTrace (a : BusAddr) (e : TxStatus) (rx : List Byte) : List Event :=
  [.tx a [0x36#8, 0x39#8] e, .wait 10000#14, .rx a 3 rx, .resp (selfTestResponse rx e.isErr)]

/-- The trace of one READ_MEASUREMENT (R153). -/
def measureTrace (a : BusAddr) (e0 e1 : TxStatus) (rx : List Byte) : List Event :=
  [.tx a [0x21#8, 0x9D#8] e0, .wait 5000#14, .tx a [0xEC#8, 0x05#8] e1, .wait 1#14, .rx a 9 rx,
    .resp (measureResponse rx (txeTwo e0 e1))]

/-- The trace of one whole operation (R151, R152, R153). -/
def OperationTrace (a : BusAddr) (l : List Event) : Prop :=
  (∃ e, l = initTrace a e) ∨
  (∃ e rx, rx.length ≤ 255 ∧ l = selfTestTrace a e rx) ∨
  (∃ e0 e1 rx, rx.length ≤ 255 ∧ l = measureTrace a e0 e1 rx)

/-- The trace is a concatenation of operation traces (R157). -/
def State.ProgramTrace (s : State) : Prop :=
  ∃ ls : List (List Event), (∀ l ∈ ls, OperationTrace s.busAddress l) ∧ s.trace = ls.flatten

/-- The status the environment gives the send number `j` of an operation started at `s`, `calls` transport calls after
its start. -/
def State.statusAt (s : State) (j calls : Nat) : TxStatus :=
  s.transport.statuses[j]?.getD (Config.freeStatus (s.drawn + calls))

/-- The bytes the environment gives the request of an operation started at `s`, `calls` transport calls after its
start. -/
def State.bytesAt (s : State) (calls : Nat) : List Byte :=
  (s.transport.answers.head?.getD (Config.freeBytes (s.drawn + calls))).take 255

/-- The state in which an operation, or the rest of one, has ended that stood at `s`: the block is Idle, `sends`
statuses and `reads` answers have been used, `calls` transport calls have returned, the events of `l` have been shown,
the transients are without meaning, and nothing else has changed. -/
def State.ended (s : State) (sends reads calls : Nat) (l : List Event) : State :=
  { s with
    phase := .idle
    work := Config.unspecifiedWork (s.drawn + calls)
    transport :=
      { statuses := s.transport.statuses.drop sends
        answers := s.transport.answers.drop reads
        returnsLeft := s.transport.returnsLeft.map (· - calls) }
    trace := s.trace ++ l
    drawn := s.drawn + calls + 1 }

/-- The state a command sent at `s` leads to: the two bytes on the bus, its status recorded in `txe[n]`, the next
step, and nothing else changed (R106). -/
def State.sent (s : State) (bytes : List Byte) (next : SeqStep) : State :=
  { s with
    work :=
      { s.work with
        txe := setBit s.work.txe s.work.n (s.statusAt 0 0).isErr
        n := s.work.n + 1
        step := next }
    transport :=
      { s.transport with
        statuses := s.transport.statuses.drop 1
        returnsLeft := s.transport.returnsLeft.map (· - 1) }
    trace := s.trace ++ [.tx s.busAddress bytes (s.statusAt 0 0)]
    drawn := s.drawn + 1 }

/-- The state a wait at `s` leads to: the call shown, the next step, and nothing else changed (R43). -/
def State.waited (s : State) (ms : Millis) (next : SeqStep) : State :=
  { s with
    work := { s.work with step := next }
    transport := { s.transport with returnsLeft := s.transport.returnsLeft.map (· - 1) }
    trace := s.trace ++ [.wait ms]
    drawn := s.drawn + 1 }

/-- The state a request at `s` leads to, the frame buffer becoming `f`: the call shown, `k` the number of bytes, the
next step, and nothing else changed (R28, R29, R42). -/
def State.requested (s : State) (count : Nat) (f : Frame) (next : SeqStep) : State :=
  { s with
    work := { s.work with step := next, k := BitVec.ofNat 8 (s.bytesAt 0).length, frame := f }
    transport :=
      { s.transport with
        answers := s.transport.answers.drop 1
        returnsLeft := s.transport.returnsLeft.map (· - 1) }
    trace := s.trace ++ [.rx s.busAddress count (s.bytesAt 0)]
    drawn := s.drawn + 1 }

/-- Steps of the sequencer until the block is Idle, at most `c` of them. -/
def runUntilIdle : Nat → State → Result
  | 0, s => .next s
  | c + 1, s =>
    match s.phase with
    | .idle => .next s
    | .busy => andThen (seqStep s) (runUntilIdle c)

/-- The rational value of a finite binary32 image: sign, 8 exponent bits of bias 127, 23 fraction bits (R139). -/
def binary32Value (v : BitVec 32) : Rat :=
  let sign : Rat := if v.getLsbD 31 then -1 else 1
  let e := (v.extractLsb' 23 8).toNat
  let f := (v.extractLsb' 0 23).toNat
  if e = 0 then sign * ((f : Rat) / 2 ^ 149)
  else sign * (((2 ^ 23 + f : Nat) : Rat) * 2 ^ e / 2 ^ 150)

/-- A binary32 image that is neither an infinity nor a NaN (G3). -/
def binary32Finite (v : BitVec 32) : Prop := v.extractLsb' 23 8 ≠ 0xFF#8

/-- The largest finite binary32 value (G3). -/
def binary32Max : Rat := 16777215 * 2 ^ 104

/-- `w` is the finite binary32 value nearest to `q`, and where another finite value is as near, the one of the two whose
last bit is 0 (R139). -/
def NearestTiesToEven (q : Rat) (w : BitVec 32) : Prop :=
  binary32Finite w ∧
    ∀ v : BitVec 32, binary32Finite v →
      |binary32Value w - q| ≤ |binary32Value v - q| ∧
        (|binary32Value w - q| = |binary32Value v - q| → binary32Value v ≠ binary32Value w → w.getLsbD 0 = false)

/-- The affine form of the checksum: 0x81 and one fixed byte for every data bit that is set (95_test_vectors 2.1,
D17). Data bit `k` of the list is bit `k` of `{b0, b1}`. -/
def crc8Basis : List Byte :=
  [0x31#8, 0x62#8, 0xC4#8, 0xB9#8, 0x43#8, 0x86#8, 0x3D#8, 0x7A#8,
    0xF4#8, 0xD9#8, 0x83#8, 0x37#8, 0x6E#8, 0xDC#8, 0x89#8, 0x23#8]

/-- The XOR of the basis bytes of the set bits of `d`, from bit `i` on. -/
def xorOfBits (d : U16) : Nat → List Byte → Byte
  | _, [] => 0#8
  | i, b :: bs => (if d.getLsbD i then b else 0#8) ^^^ xorOfBits d (i + 1) bs

/-- `CRC8` as a fixed XOR network of its sixteen input bits. -/
def crc8Affine (b0 b1 : Byte) : Byte := 0x81#8 ^^^ xorOfBits (b0 ++ b1) 0 crc8Basis

end Sys2Proof.Machine
end

