-- ==== Sys2Proof/Certificates/Slice0/Obligations.lean ====
section
/-! DEFINITION. The statements for the provers. Each docstring names the rule of spec/ it formalises, and the log entry
of a choice of the model it rests on. -/

open Sys2Proof Sys2Proof.Machine

/-! ### The CRC-8 unit -/

/-- R91: one shift step of the accumulator, with the corner cases of the rule. -/
def Obligations.CrcBitIsOneShiftStep : Prop :=
  (∀ c : Byte, crc8Bit c = if c.getLsbD 7 = true then (c <<< 1) ^^^ 0x31#8 else c <<< 1) ∧
    crc8Bit 0x00#8 = 0x00#8 ∧ crc8Bit 0x80#8 = 0x31#8 ∧ crc8Bit 0xFF#8 = 0xCF#8

/-- R92: initial value 0xFF, then for each of the two bytes, the first first, XOR and eight shift steps; with the
corner cases and the worked example of the rule. -/
def Obligations.Crc8IsSixteenShiftSteps : Prop :=
  (∀ b0 b1 : Byte, crc8 b0 b1 = crc8Bit^[8] (crc8Bit^[8] (0xFF#8 ^^^ b0) ^^^ b1)) ∧
    crc8 0x00#8 0x00#8 = 0x81#8 ∧ crc8 0xFF#8 0x00#8 = 0x00#8 ∧ crc8 0x00#8 0x01#8 = 0xB0#8 ∧
    crc8 0x01#8 0x00#8 = 0x75#8 ∧ crc8 0xBE#8 0xEF#8 = 0x92#8

/-- R94: a triple matches iff its checksum byte is CRC8 of its value bytes, so exactly one byte matches. -/
def Obligations.CrcCheckIsEqualityOfAllEightBits : Prop :=
  (∀ hi lo c : Byte, crcCheck hi lo c = true ↔ crc8 hi lo = c) ∧
    (∀ hi lo : Byte, ∃! c : Byte, crcCheck hi lo c = true) ∧
    crcCheck 0x02#8 0xBC#8 0x9A#8 = true ∧ crcCheck 0x02#8 0xBC#8 0x9B#8 = false

/-- R96(b), (c): the value for the zero input, and every change of one of the sixteen data bits changes the result. -/
def Obligations.Crc8DetectsEverySingleBitFlip : Prop :=
  crc8 0x00#8 0x00#8 = 0x81#8 ∧
    ∀ (b0 b1 : Byte) (i : Nat), i < 8 →
      crc8 (b0 ^^^ (1#8 <<< i)) b1 ≠ crc8 b0 b1 ∧ crc8 b0 (b1 ^^^ (1#8 <<< i)) ≠ crc8 b0 b1

/-- R97(a), (c): a bijection in each operand, and linear over XOR up to the constant. -/
def Obligations.Crc8IsAffineAndBijectiveInEachByte : Prop :=
  (∀ b0 : Byte, Function.Bijective (fun b1 : Byte => crc8 b0 b1)) ∧
    (∀ b1 : Byte, Function.Bijective (fun b0 : Byte => crc8 b0 b1)) ∧
    ∀ a0 a1 d0 d1 : Byte,
      crc8 (a0 ^^^ d0) (a1 ^^^ d1) = crc8 a0 a1 ^^^ crc8 d0 d1 ^^^ crc8 0x00#8 0x00#8

/-- R97(b), (d), (e): every change of two of the sixteen data bits changes the result; the accumulator loop over a
triple that matches ends at zero; distinct inputs can share a checksum. -/
def Obligations.Crc8TwoBitFlipsAndResidue : Prop :=
  (∀ (d : U16) (i j : Nat), i < j → j < 16 →
    crc8 (hiByte (d ^^^ (1#16 <<< i) ^^^ (1#16 <<< j))) (loByte (d ^^^ (1#16 <<< i) ^^^ (1#16 <<< j))) ≠
      crc8 (hiByte d) (loByte d)) ∧
    (∀ hi lo : Byte, crc8Byte (crc8 hi lo) (crc8 hi lo) = 0x00#8) ∧
    crc8 0x80#8 0x00#8 = 0xA2#8 ∧ crc8 0x66#8 0x67#8 = 0xA2#8

/-- D17 and 95_test_vectors 2.1: the bit-serial design equals the fixed XOR network on all inputs. -/
def Obligations.Crc8EqualsItsXorNetwork : Prop := ∀ b0 b1 : Byte, crc8 b0 b1 = crc8Affine b0 b1

/-- R30, R92: the unit started on a triple ends with CRC8 of its bytes in the accumulator, whatever it held before, and
changes nothing else. -/
def Obligations.CrcUnitForgetsItsAccumulator : Prop :=
  ∀ (s : State) (t : Triple), s.runCrc t = { s with work := { s.work with crc := crc8 t.hi t.lo } }

/-! ### Encodings -/

/-- R105: ENCODE is the big-endian image of the table's value, for the six names. -/
def Obligations.EncodeSendsHighByteFirst : Prop :=
  (∀ c : Command,
    encodeCommand c = [BitVec.ofNat 8 ((commandValue c).toNat / 256), BitVec.ofNat 8 ((commandValue c).toNat % 256)]) ∧
    encodeCommand .getStatus = [0xE4#8, 0x88#8] ∧ encodeCommand .startPeriodicMeasuring = [0x21#8, 0xB1#8] ∧
    encodeCommand .readMeasurement = [0xEC#8, 0x05#8] ∧ encodeCommand .stopPeriodicMeasuring = [0x3F#8, 0x86#8] ∧
    encodeCommand .measureSingleShot = [0x21#8, 0x9D#8] ∧ encodeCommand .performSelfTest = [0x36#8, 0x39#8]

/-- R66, R67, R71: decoding the encoding of an instruction gives it back, and the bytes after it. The byte that carries
an OP code is the model's (log 19). -/
def Obligations.DecodeInvertsEncode : Prop :=
  ∀ (i : Instr) (rest : List Byte), i.wf = true → decode i.format (encode i ++ rest) = .instr i rest

/-- R66, R67: nothing but the two bytes of a command decodes to it. For an OP row the statement is the model's choice
(log 19): R71 gives a code of two bits and no byte, and the model rejects a byte in which one of the bits 7..2 is set. -/
def Obligations.DecodeAcceptsOnlyEncodings : Prop :=
  ∀ (f : Format) (bytes rest : List Byte) (i : Instr),
    decode f bytes = .instr i rest → i.format = f ∧ bytes = encode i ++ rest

/-- R75(a), (b), by decision D16: the reserved code and the words that are none of the six commands are rejected by
name. The byte that carries the code is the model's (log 19). -/
def Obligations.ReservedCodeAndUnlistedWordsRejected : Prop :=
  (∀ rest : List Byte, decode .op (0x03#8 :: rest) = .reject .reservedOperation) ∧
    ∀ (w : U16) (rest : List Byte), (∀ c : Command, w ≠ commandValue c) →
      decode .cmd16 (hiByte w :: loByte w :: rest) = .reject (.notACommand w)

/-- Words written out from 30_encoding R67 and R71 decode to the instructions they stand for. The byte that carries an
OP code is the model's (log 19). -/
def Obligations.WordsOfTheTableDecode : Prop :=
  decodeTableWord 8 0b00 = some .opInitialize ∧ decodeTableWord 8 0b10 = some .opReadMeasurement ∧
    decodeTableWord 8 0b11 = none ∧
    decodeTableWord 16 0b1110110000000101 = some .cmdReadMeasurement ∧
    decodeTableWord 16 0b0011111110000110 = some .cmdStopPeriodicMeasuring ∧
    decodeTableWord 16 0b0000010111101100 = none

/-! ### The frame parser -/

/-- R122: a raw value is unsigned and big-endian. -/
def Obligations.RawIsUnsignedBigEndian : Prop :=
  (∀ hi lo : Byte, (raw hi lo).toNat = hi.toNat * 256 + lo.toNat) ∧
    (raw 0x00#8 0x00#8).toNat = 0 ∧ (raw 0xFF#8 0xFF#8).toNat = 65535 ∧ (raw 0x80#8 0x00#8).toNat = 32768 ∧
    (raw 0x02#8 0xBC#8).toNat = 700

/-- R121: the three triples stand at the offsets 0, 3 and 6 of the received bytes, in the order CO2, temperature,
relative humidity. -/
def Obligations.ExtractTakesFixedOffsets : Prop :=
  ∀ (f : Frame) (b0 b1 b2 b3 b4 b5 b6 b7 b8 : Byte) (rest : List Byte),
    (f.fill (b0 :: b1 :: b2 :: b3 :: b4 :: b5 :: b6 :: b7 :: b8 :: rest)).co2 = ⟨b0, b1, b2⟩ ∧
      (f.fill (b0 :: b1 :: b2 :: b3 :: b4 :: b5 :: b6 :: b7 :: b8 :: rest)).temperature = ⟨b3, b4, b5⟩ ∧
      (f.fill (b0 :: b1 :: b2 :: b3 :: b4 :: b5 :: b6 :: b7 :: b8 :: rest)).humidity = ⟨b6, b7, b8⟩

/-- R28, R120: F[i] <- rx[i] for i < min(len(rx), 9), and the other bytes are not written. That they keep what they held
is the model's choice (log 22). -/
def Obligations.FrameFillWritesReceivedBytesOnly : Prop :=
  ∀ (f : Frame) (rx : List Byte) (i : Nat), i < 9 →
    (∀ h : i < rx.length, (f.fill rx).read i = some rx[i]) ∧ (rx.length ≤ i → (f.fill rx).read i = f.read i)

/-- R120, R126: fewer than nine bytes are a short read that reports the count, and nine or more never are. -/
def Obligations.LengthGateComesFirst : Prop :=
  (∀ rx : List Byte, rx.length < 9 → parseFrame rx = .shortRead (BitVec.ofNat 8 rx.length)) ∧
    ∀ (rx : List Byte) (k : Count), 9 ≤ rx.length → parseFrame rx ≠ .shortRead k

/-- R124, R125 (bit order of the mask: decision D4): the three raw values come out iff all three checksums match;
otherwise a nonzero mask names exactly the failing fields. -/
def Obligations.ValidationIsAllOrNothing : Prop :=
  ∀ (b0 b1 b2 b3 b4 b5 b6 b7 b8 : Byte) (rest : List Byte),
    (crc8 b0 b1 = b2 ∧ crc8 b3 b4 = b5 ∧ crc8 b6 b7 = b8 →
      parseFrame (b0 :: b1 :: b2 :: b3 :: b4 :: b5 :: b6 :: b7 :: b8 :: rest) =
        .values (raw b0 b1) (raw b3 b4) (raw b6 b7)) ∧
    (¬(crc8 b0 b1 = b2 ∧ crc8 b3 b4 = b5 ∧ crc8 b6 b7 = b8) →
      ∃ m : BitVec 3,
        parseFrame (b0 :: b1 :: b2 :: b3 :: b4 :: b5 :: b6 :: b7 :: b8 :: rest) = .checksumMismatch m ∧ m ≠ 0#3 ∧
          (m.getLsbD 0 = true ↔ crc8 b0 b1 ≠ b2) ∧ (m.getLsbD 1 = true ↔ crc8 b3 b4 ≠ b5) ∧
          (m.getLsbD 2 = true ↔ crc8 b6 b7 ≠ b8))

/-- R128, by decision D8 (log 7): bytes past the ninth have no influence. -/
def Obligations.ExcessBytesAreIgnored : Prop :=
  ∀ (rx extra : List Byte) (txe : BitVec 2), 9 ≤ rx.length →
    parseFrame (rx ++ extra) = parseFrame rx ∧ measureResponse (rx ++ extra) txe = measureResponse rx txe

/-- R127: a self-test succeeds iff exactly three bytes came, whatever they are; else the actual count is reported. -/
def Obligations.SelfTestLooksOnlyAtTheCount : Prop :=
  ∀ (rx : List Byte) (txe0 : Bool), rx.length ≤ 255 →
    (rx.length = 3 → selfTestResponse rx txe0 = .selfTestOk txe0) ∧
      (rx.length ≠ 3 →
        ∃ k : Count, selfTestResponse rx txe0 = .selfTestUnexpectedLength k txe0 ∧ k.toNat = rx.length)

/-! ### The numeric decoder -/

/-- R136, and decision D6 for the format of the image: CO2 is the raw value, and its binary32 image is exact. -/
def Obligations.Co2IsRawAndItsImageExact : Prop :=
  (∀ r : U16, decCo2 r = (r.toNat : Rat) ∧ binary32Value (toFloat (decCo2 r)) = (r.toNat : Rat)) ∧
    toFloat (decCo2 0#16) = 0x00000000#32 ∧ toFloat (decCo2 65535#16) = 0x477FFF00#32 ∧
    toFloat (decCo2 700#16) = 0x442F0000#32

/-- R137: the exact temperature, its range and its exact points, its sign, and its strict growth by 35/13107 a count. -/
def Obligations.TemperatureFollowsTheFormula : Prop :=
  (∀ r : U16, decT r = -45 + (175 * (r.toNat : Rat)) / 65535 ∧ decT r ≠ 0 ∧
    (decT r < 0 ↔ r.toNat ≤ 16851) ∧ -45 ≤ decT r ∧ decT r ≤ 130) ∧
    (∀ r r' : U16, decT r' - decT r = (35 / 13107 : Rat) * ((r'.toNat : Rat) - (r.toNat : Rat))) ∧
    decT 0#16 = -45 ∧ decT 65535#16 = 130 ∧ decT 13107#16 = -10 ∧ decT 26214#16 = 25 ∧ decT 39321#16 = 60 ∧
    decT 52428#16 = 95 ∧ decT 16852#16 = 5 / 13107 ∧ decT 32768#16 = 557065 / 13107

/-- R139, by decision D6 (log 15): `to_float` rounds the exact value once, to the nearest finite binary32 value, ties to
even, for every rational between the largest finite values; so is the image of every temperature, for which no tie
arises: every other finite image is strictly farther. -/
def Obligations.TemperatureImageIsRoundedOnce : Prop :=
  (∀ q : Rat, |q| ≤ binary32Max → NearestTiesToEven q (toFloat q)) ∧
    ∀ r : U16, NearestTiesToEven (decT r) (toFloat (decT r)) ∧
      ∀ v : BitVec 32, binary32Finite v → v ≠ toFloat (decT r) →
        |binary32Value (toFloat (decT r)) - decT r| < |binary32Value v - decT r|

/-- R138: relative humidity is the floor of the fractional value, with the corner cases of the rule. -/
def Obligations.HumidityIsTheFloor : Prop :=
  (∀ r : U16, (((decRh r).toNat : Nat) : Int) = ⌊(100 * (r.toNat : ℚ)) / 65535⌋) ∧
    (∀ r : U16, (decRh r).toNat ≤ 100 ∧ ((decRh r).toNat = 100 ↔ r = 65535#16)) ∧
    (∀ (r : U16) (n : Nat), n ≤ 100 → (n ≤ (decRh r).toNat ↔ (⌈(65535 * (n : ℚ)) / 100⌉ : Int) ≤ (r.toNat : Int))) ∧
    (∀ r : U16, (∃ z : Int, (100 * (r.toNat : ℚ)) / 65535 = z) ↔ r.toNat % 13107 = 0) ∧
    (∀ j : Nat, j ≤ 5 → (100 * ((13107 * j : Nat) : ℚ)) / 65535 = 20 * j) ∧
    decRh 0#16 = 0#8 ∧ decRh 65534#16 = 99#8 ∧ decRh 655#16 = 0#8 ∧ decRh 656#16 = 1#8 ∧ decRh 32767#16 = 49#8 ∧
    decRh 32768#16 = 50#8

/-- Binary32 images of the table of 95_test_vectors 2.4, under the default FLOAT_FMT (D6, log 15). -/
def Obligations.TemperatureImagesOfTheSpecTable : Prop :=
  toFloat (decT 0#16) = 0xC2340000#32 ∧ toFloat (decT 1#16) = 0xC233FD44#32 ∧
    toFloat (decT 16851#16) = 0xBB160096#32 ∧ toFloat (decT 16852#16) = 0x39C800C8#32 ∧
    toFloat (decT 32768#16) = 0x422A015E#32 ∧ toFloat (decT 65535#16) = 0x43020000#32

/-- R72 and R170, by decisions D4 and D19: the port image carries the status code and drives every field that is not
valid to zero. -/
def Obligations.PortDrivesInvalidFieldsToZero : Prop :=
  (∀ b : Bool, (Response.initDone b).port = ⟨0, if b then 1 else 0, 0, 0, 0, 0, 0⟩) ∧
    (∀ b : Bool, (Response.selfTestOk b).port = ⟨0, if b then 1 else 0, 0, 0, 0, 0, 0⟩) ∧
    (∀ (k : Count) (b : Bool),
      (Response.selfTestUnexpectedLength k b).port = ⟨3, if b then 1 else 0, k, 0, 0, 0, 0⟩) ∧
    (∀ (k : Count) (x : BitVec 2), (Response.measShortRead k x).port = ⟨1, x, k, 0, 0, 0, 0⟩) ∧
    (∀ (m : BitVec 3) (x : BitVec 2), (Response.measChecksumMismatch m x).port = ⟨2, x, 0, m, 0, 0, 0⟩) ∧
    ∀ (c t : Rat) (h : BitVec 8) (x : BitVec 2),
      (Response.measOk c t h x).port = ⟨0, x, 0, 0, toFloat c, toFloat t, h⟩

/-! ### The host operations -/

/-- R151: INITIALIZE sends STOP_PERIODIC_MEASURING, waits 500 ms and responds InitDone with the report of the send
(txe: decision D5), whatever the status of the send; nothing else changes. It completes at every Idle state at which
its two transport calls return (D22). That it is one step is the model's choice (log 8), and so are the free values of
the transients that follow (log 3). -/
def Obligations.InitializeRunsItsColumn : Prop :=
  ∀ s : State, s.phase = .idle → s.callsReturn 2 = true →
    exec .opInitialize s = .next (s.ended 1 0 2
      [.tx s.busAddress [0x3F#8, 0x86#8] (s.statusAt 0 0), .wait 500#14,
        .resp (.initDone (decide (s.statusAt 0 0 = .err)))])

/-- R152: SELF_TEST sends PERFORM_SELF_TEST, waits 10000 ms, requests 3 bytes and responds by their number alone; it
completes at every Idle state at which its three transport calls return (one step: log 8; the transients after it:
log 3). -/
def Obligations.SelfTestRunsItsColumn : Prop :=
  ∀ s : State, s.phase = .idle → s.callsReturn 3 = true →
    exec .opSelfTest s = .next (s.ended 1 1 3
      [.tx s.busAddress [0x36#8, 0x39#8] (s.statusAt 0 0), .wait 10000#14, .rx s.busAddress 3 (s.bytesAt 2),
        .resp (if (s.bytesAt 2).length = 3 then .selfTestOk (decide (s.statusAt 0 0 = .err))
          else .selfTestUnexpectedLength (BitVec.ofNat 8 (s.bytesAt 2).length) (decide (s.statusAt 0 0 = .err)))])

/-- R153: READ_MEASUREMENT makes its five calls in order, whatever the two statuses, and responds as PARSE_FRAME and
the decoder say of the bytes received, with both statuses in txe; it completes at every Idle state at which its five
transport calls return (one step: log 8; the transients after it: log 3). -/
def Obligations.ReadMeasurementRunsItsColumn : Prop :=
  ∀ s : State, s.phase = .idle → s.callsReturn 5 = true →
    exec .opReadMeasurement s = .next (s.ended 2 1 5
      [.tx s.busAddress [0x21#8, 0x9D#8] (s.statusAt 0 0), .wait 5000#14,
        .tx s.busAddress [0xEC#8, 0x05#8] (s.statusAt 1 2), .wait 1#14, .rx s.busAddress 9 (s.bytesAt 4),
        .resp (measureResponse (s.bytesAt 4) (txeTwo (s.statusAt 0 0) (s.statusAt 1 2)))])

/-- R25, R150, R155: an operation is the acceptance and then the steps of its column, one after the other, until the
block is Idle. That exec runs all of them is the model's choice (log 8). -/
def Obligations.OperationIsItsStepsUntilIdle : Prop :=
  ∀ s : State, s.phase = .idle →
    exec .opInitialize s = runUntilIdle 3 (s.accept 0b00#2 .i0) ∧
      exec .opSelfTest s = runUntilIdle 4 (s.accept 0b01#2 .s0) ∧
      exec .opReadMeasurement s = runUntilIdle 8 (s.accept 0b10#2 .m0)

/-- R150: acceptance latches op, clears txe, resets n, makes phase Busy and step the first step, and changes nothing
else. -/
def Obligations.AcceptanceSetsTheSequencer : Prop :=
  ∀ (s : State) (code : BitVec 2) (p : SeqStep),
    s.accept code p =
      { s with phase := .busy, work := { s.work with op := code, step := p, txe := 0#2, n := 0 } }

/-- R161, R181, R207: a host operation is refused while the block is Busy (a refusal: log 11). -/
def Obligations.OperationsRefusedWhileBusy : Prop :=
  ∀ (i : Instr) (s : State), i.format = .op → s.phase = .busy → exec i s = .refused .requestWhileBusy

/-- R206, U13: an operation one of whose transport calls never returns does not end; the fault that says so, for the
operation as one step, is the model's choice (log 5, 8). -/
def Obligations.OperationNeverEndsWhenACallNeverReturns : Prop :=
  ∀ (s : State) (r : Nat), s.phase = .idle → s.transport.returnsLeft = some r →
    (r < 2 → exec .opInitialize s = .fault .transportCallNeverReturns) ∧
      (r < 3 → exec .opSelfTest s = .fault .transportCallNeverReturns) ∧
      (r < 5 → exec .opReadMeasurement s = .fault .transportCallNeverReturns)

/-- R22, R157: no state is carried over: the calls and the response of an operation do not depend on any transient. That
the whole outcome does not, the transients left after the response included, rests on the model's choice of one free
value for these (log 3). -/
def Obligations.OperationsIgnoreTheTransients : Prop :=
  ∀ (i : Instr) (s : State) (w : Work), i.format = .op → exec i { s with work := w } = exec i s

/-- R21, R159, R211: what every operation leaves unchanged, and what it owes the host: Idle again, one operation trace
added, the host's list and the address untouched, statuses and answers only used up from the front. That exec runs the
whole operation is the model's choice (log 8); the counters `returnsLeft` and `drawn` (log 4, 5) are left out. -/
def Obligations.OperationFrame : Prop :=
  ∀ (i : Instr) (s t : State), i.format = .op → exec i s = .next t →
    s.phase = .idle ∧ t.phase = .idle ∧ t.busAddress = s.busAddress ∧ t.requests = s.requests ∧
      (∃ l, OperationTrace s.busAddress l ∧ t.trace = s.trace ++ l) ∧
      (∃ j, j ≤ 2 ∧ t.transport.statuses = s.transport.statuses.drop j) ∧
      (∃ j, j ≤ 1 ∧ t.transport.answers = s.transport.answers.drop j)

/-- R106, R171, by decision D5: a send failure changes the txe field of the response and nothing else of it, in the
responses of all three operations: bit 0 is the failure of the first send, bit 1 that of the second, and 0 where there
is none. -/
def Obligations.SendFailureChangesOnlyTxe : Prop :=
  ∀ (rx : List Byte) (e0 e1 e0' e1' : TxStatus),
    { (measureResponse rx (txeTwo e0 e1)).port with txe := 0#2 } =
        { (measureResponse rx (txeTwo e0' e1')).port with txe := 0#2 } ∧
      (measureResponse rx (txeTwo e0 e1)).port.txe.getLsbD 0 = decide (e0 = .err) ∧
      (measureResponse rx (txeTwo e0 e1)).port.txe.getLsbD 1 = decide (e1 = .err) ∧
      { (selfTestResponse rx e0.isErr).port with txe := 0#2 } =
        { (selfTestResponse rx e0'.isErr).port with txe := 0#2 } ∧
      (selfTestResponse rx e0.isErr).port.txe.getLsbD 0 = decide (e0 = .err) ∧
      (selfTestResponse rx e0.isErr).port.txe.getLsbD 1 = false ∧
      { (Response.initDone e0.isErr).port with txe := 0#2 } =
        { (Response.initDone e0'.isErr).port with txe := 0#2 } ∧
      (Response.initDone e0.isErr).port.txe.getLsbD 0 = decide (e0 = .err) ∧
      (Response.initDone e0.isErr).port.txe.getLsbD 1 = false

/-- R178, R179: raising an error returns its response, with the current txe, makes the block Idle, and saves
nothing. -/
def Obligations.RaiseRespondsAndGoesIdle : Prop :=
  ∀ s : State,
    (∀ k : Count, s.raise (.shortRead k) = s.ended 0 0 0 [.resp (.measShortRead k s.work.txe)]) ∧
      (∀ m : BitVec 3,
        s.raise (.checksumMismatch m) = s.ended 0 0 0 [.resp (.measChecksumMismatch m s.work.txe)]) ∧
      ∀ k : Count, s.raise (.unexpectedResponseLength k) =
        s.ended 0 0 0 [.resp (.selfTestUnexpectedLength k (s.work.txe.getLsbD 0))]

/-! ### The bus commands -/

/-- R109 to R112 with R106: each of the four issued commands, at its own step, puts its two bytes on the bus, records
its status in the next txe bit, and goes on to the wait behind it, whatever the status. It completes whenever the call
returns. -/
def Obligations.IssuedCommandsSendAtTheirStep : Prop :=
  ∀ s : State, s.phase = .busy → s.callsReturn 1 = true →
    (s.work.step = .i0 → exec .cmdStopPeriodicMeasuring s = .next (s.sent [0x3F#8, 0x86#8] .i1)) ∧
      (s.work.step = .s0 → exec .cmdPerformSelfTest s = .next (s.sent [0x36#8, 0x39#8] .s1)) ∧
      (s.work.step = .m0 → exec .cmdMeasureSingleShot s = .next (s.sent [0x21#8, 0x9D#8] .m1)) ∧
      (s.work.step = .m2 → exec .cmdReadMeasurement s = .next (s.sent [0xEC#8, 0x05#8] .m3))

/-- R106: the first send of an operation records its status in bit 0 and the second in bit 1, each leaving the other
bit as it was. -/
def Obligations.SendRecordsItsOwnTxeBit : Prop :=
  ∀ (s : State) (e : TxStatus),
    (s.work.n = 0 → (s.recordSend e).work.txe.getLsbD 0 = decide (e = .err) ∧
      (s.recordSend e).work.txe.getLsbD 1 = s.work.txe.getLsbD 1 ∧ (s.recordSend e).work.n = 1) ∧
    (s.work.n = 1 → (s.recordSend e).work.txe.getLsbD 1 = decide (e = .err) ∧
      (s.recordSend e).work.txe.getLsbD 0 = s.work.txe.getLsbD 0 ∧ (s.recordSend e).work.n = 2)

/-- R107, R108, U8 (log 10): GET_STATUS and START_PERIODIC_MEASURING have an encoding and are issued nowhere: they are
refused at every state. -/
def Obligations.UnissuedCommandsAreRefused : Prop :=
  ∀ s : State, exec .cmdGetStatus s = .refused .commandNotIssued ∧
    exec .cmdStartPeriodicMeasuring s = .refused .commandNotIssued

/-- R113, R150 (log 9): away from its own step, or while the block is Idle, an issued command is refused. -/
def Obligations.CommandsRefusedOutOfSequence : Prop :=
  ∀ s : State,
    (s.phase = .idle ∨ s.work.step ≠ .i0 → exec .cmdStopPeriodicMeasuring s = .refused .commandOutOfSequence) ∧
      (s.phase = .idle ∨ s.work.step ≠ .s0 → exec .cmdPerformSelfTest s = .refused .commandOutOfSequence) ∧
      (s.phase = .idle ∨ s.work.step ≠ .m0 → exec .cmdMeasureSingleShot s = .refused .commandOutOfSequence) ∧
      (s.phase = .idle ∨ s.work.step ≠ .m2 → exec .cmdReadMeasurement s = .refused .commandOutOfSequence)

/-- R106, R27: what a command leaves unchanged: everything but its txe bit, the counter, the step, one used status, one
event, which is one of the four byte pairs sent to the block's own address, and the model's own bookkeeping: one call
spent of those that return (log 5) and one free value drawn (log 4). -/
def Obligations.CommandFrame : Prop :=
  ∀ (i : Instr) (s t : State), i.format = .cmd16 → exec i s = .next t →
    s.phase = .busy ∧ t.phase = .busy ∧ t.busAddress = s.busAddress ∧ t.requests = s.requests ∧
      t.work.op = s.work.op ∧ t.work.frame = s.work.frame ∧ t.work.k = s.work.k ∧ t.work.crc = s.work.crc ∧
      t.work.m = s.work.m ∧ t.work.n = s.work.n + 1 ∧
      (∀ j : Nat, j ≠ s.work.n → t.work.txe.getLsbD j = s.work.txe.getLsbD j) ∧
      t.transport.answers = s.transport.answers ∧ t.transport.statuses = s.transport.statuses.drop 1 ∧
      t.transport.returnsLeft = s.transport.returnsLeft.map (· - 1) ∧ t.drawn = s.drawn + 1 ∧
      ∃ bytes ∈ sentBytes, t.trace = s.trace ++ [.tx s.busAddress bytes (s.statusAt 0 0)]

/-! ### The sequencer and the step -/

/-- R25: the waits and requests of the step table, at every Busy state at which the call returns. That a step of a Busy
block is one row of the table is the model's choice (log 8). -/
def Obligations.WaitAndRequestStepsFollowTheTable : Prop :=
  ∀ s : State, s.phase = .busy → s.callsReturn 1 = true →
    (s.work.step = .i1 → step s = .next (s.waited 500#14 .i2)) ∧
      (s.work.step = .s1 → step s = .next (s.waited 10000#14 .s2)) ∧
      (s.work.step = .m1 → step s = .next (s.waited 5000#14 .m2)) ∧
      (s.work.step = .m3 → step s = .next (s.waited 1#14 .m4)) ∧
      (s.work.step = .s2 → step s = .next (s.requested 3 s.work.frame .s3)) ∧
      (s.work.step = .m4 → step s = .next (s.requested 9 (s.work.frame.fill (s.bytesAt 0)) .m5))

/-- R25: the steps without a transport call, at every Busy state: the response of INITIALIZE, the three early ends and
the two successes. That a step of a Busy block is one row of the table is the model's choice (log 8), and so are the
free transients after a response (log 3) and that M7 reads `F` again (log 21). -/
def Obligations.DecidingStepsFollowTheTable : Prop :=
  ∀ s : State, s.phase = .busy →
    (s.work.step = .i2 → step s = .next (s.ended 0 0 0 [.resp (.initDone (s.work.txe.getLsbD 0))])) ∧
      (s.work.step = .s3 → step s = .next (s.ended 0 0 0
        [.resp (if s.work.k = 3#8 then .selfTestOk (s.work.txe.getLsbD 0)
          else .selfTestUnexpectedLength s.work.k (s.work.txe.getLsbD 0))])) ∧
      (s.work.step = .m5 → step s = .next
        (if s.work.k.toNat < 9 then s.ended 0 0 0 [.resp (.measShortRead s.work.k s.work.txe)]
          else { s with work := { s.work with step := .m6 } })) ∧
      (s.work.step = .m6 → s.work.frame.mismatch ≠ 0#3 → step s = .next
        (s.ended 0 0 0 [.resp (.measChecksumMismatch s.work.frame.mismatch s.work.txe)])) ∧
      (s.work.step = .m6 → s.work.frame.mismatch = 0#3 → ∃ c : Byte, step s = .next
        { s with work := { s.work with step := .m7, m := 0#3, crc := c } }) ∧
      (s.work.step = .m7 → step s = .next (s.ended 0 0 0
        [.resp (.measOk (decCo2 (raw s.work.frame.co2Hi s.work.frame.co2Lo))
          (decT (raw s.work.frame.tHi s.work.frame.tLo)) (decRh (raw s.work.frame.rhHi s.work.frame.rhLo))
          s.work.txe)]))

/-- R206, U13 (log 5): a sequencer step whose transport call never returns leaves the block stuck. -/
def Obligations.StepIsStuckWhenItsCallNeverReturns : Prop :=
  ∀ s : State, s.phase = .busy → s.transport.returnsLeft = some 0 →
    s.work.step ∈ [.i0, .i1, .s0, .s1, .s2, .m0, .m1, .m2, .m3, .m4] →
    step s = .fault .transportCallNeverReturns

/-- R150 (log 8): when the block is Idle and what the host presents decodes to a well-formed instruction, the step is
that instruction with the request taken. -/
def Obligations.StepRunsThePresentedInstruction : Prop :=
  ∀ (s : State) (q : HostRequest) (rest : List HostRequest) (i : Instr) (bs : List Byte),
    s.phase = .idle → s.requests = q :: rest → decodeRequest q = .instr i bs → i.wf = true →
      step s = exec i { s with requests := rest }

/-- R25, R106: while the block is Busy at a send step, the step is the command that step sends. That a step of a Busy
block is one row of the table is the model's choice (log 8). -/
def Obligations.StepRunsTheSequencedCommand : Prop :=
  ∀ s : State, s.phase = .busy →
    (s.work.step = .i0 → step s = exec .cmdStopPeriodicMeasuring s) ∧
      (s.work.step = .s0 → step s = exec .cmdPerformSelfTest s) ∧
      (s.work.step = .m0 → step s = exec .cmdMeasureSingleShot s) ∧
      (s.work.step = .m2 → step s = exec .cmdReadMeasurement s)

/-- R187: an Idle block with nothing presented does nothing. -/
def Obligations.IdleBlockWaitsForTheHost : Prop :=
  ∀ s : State, s.phase = .idle → s.requests = [] → step s = .next s

/-- R161, R75, R150 (decisions D16, D18; log 11, 12): the reserved code and every attempt to have a command word sent
are refused. -/
def Obligations.ReservedCodeAndCommandAttemptsRefused : Prop :=
  ∀ (s : State) (rest : List HostRequest), s.phase = .idle →
    (s.requests = .operation 0b11#2 :: rest → step s = .refused .reservedOperation) ∧
      ∀ w : U16, s.requests = .command w :: rest → ∃ r, step s = .refused r

/-- R207, by decision D11: while Busy, what the host presents has no influence and is held off. -/
def Obligations.BusyBlockHoldsRequestsOff : Prop :=
  ∀ (s t : State) (qs : List HostRequest), s.phase = .busy → step s = .next t →
    t.requests = s.requests ∧ step { s with requests := qs } = .next { t with requests := qs }

/-- R33, R200: reset leaves the address parameter, Idle, and no transport call made. -/
def Obligations.ResetIsIdleAndSilent : Prop :=
  State.reset.busAddress = Config.busAddress ∧ State.reset.phase = .idle ∧ State.reset.trace = []

/-- R21: no step writes the bus address. -/
def Obligations.BusAddressIsImmutable : Prop :=
  ∀ s t : State, step s = .next t → t.busAddress = s.busAddress

/-- R13: what has been observed is never taken back: a step only adds to the trace (log 14), at most the six events of a
whole operation, the longest step (log 8). -/
def Obligations.TraceOnlyGrows : Prop :=
  ∀ s t : State, step s = .next t → ∃ l, l.length ≤ 6 ∧ t.trace = s.trace ++ l

/-- R113, R42, R154, R170, R141: every step keeps the trace lawful: only the four commands, always two bytes to the
block's own address, only the four waits, only requests of 9 or 3 bytes, only responses within their ranges. -/
def Obligations.LawfulTraceIsKept : Prop :=
  ∀ s t : State, s.Lawful → step s = .next t → t.Lawful

/-- The trace is lawful at reset. -/
def Obligations.ResetTraceIsLawful : Prop := State.reset.Lawful

/-- R25, R26, R27, R28, R29: every step keeps the transients consistent with the step the sequencer stands at. -/
def Obligations.SequencerConsistencyIsKept : Prop :=
  ∀ s t : State, s.Sequenced → step s = .next t → t.Sequenced

/-- The sequencer is consistent at reset, and after every acceptance of an operation at its first step. -/
def Obligations.SequencerStartsConsistent : Prop :=
  State.reset.Sequenced ∧ ∀ s : State,
    (s.accept 0b00#2 .i0).Sequenced ∧ (s.accept 0b01#2 .s0).Sequenced ∧ (s.accept 0b10#2 .m0).Sequenced

/-- R157, R159, R211: the trace of a program (log 14) is the concatenation of the traces of its operations, each of its
fixed shape. That the block is Idle again after every step that starts Idle is the model's choice of one whole operation
as one step (log 8). -/
def Obligations.ProgramTraceIsConcatenation : Prop :=
  ∀ s t : State, s.phase = .idle → s.ProgramTrace → step s = .next t → t.phase = .idle ∧ t.ProgramTrace

/-- The empty trace of reset is such a concatenation, and reset is Idle. -/
def Obligations.ResetTraceIsConcatenation : Prop := State.reset.phase = .idle ∧ State.reset.ProgramTrace

/-- R124, R175, R58: a measurement is delivered only behind a request whose bytes hold three matching triples, and is
their decoding; for a consistent sequencer. -/
def Obligations.DeliveredMeasurementWasValidated : Prop :=
  ∀ (s t : State) (c T : Rat) (h : BitVec 8) (x : BitVec 2),
    s.Sequenced → s.phase = .busy → step s = .next t → t.trace = s.trace ++ [.resp (.measOk c T h x)] →
      ∃ b0 b1 b2 b3 b4 b5 b6 b7 b8 rest,
        s.trace.getLast? =
            some (.rx s.busAddress 9 (b0 :: b1 :: b2 :: b3 :: b4 :: b5 :: b6 :: b7 :: b8 :: rest)) ∧
          crc8 b0 b1 = b2 ∧ crc8 b3 b4 = b5 ∧ crc8 b6 b7 = b8 ∧
          c = decCo2 (raw b0 b1) ∧ T = decT (raw b3 b4) ∧ h = decRh (raw b6 b7) ∧ x = s.work.txe
end

