-- ==== Sys2Proof/Laws/Binary32.lean ====
section
/-! SUPPORT. The rounding of `toFloat`, one lemma per function: what `roundHalfEven`, `floorLog2` and
`binary32Magnitude` give, and the value of a binary32 image by sign and magnitude. -/

namespace Sys2Proof.Machine

/-- The rounded quotient is a nearest integer, and where another is as near it is even; over the integers. -/
theorem roundHalfEven_int (num den : Nat) (h : 0 < den) (k : Int) :
    |(roundHalfEven num den : Int) * den - num| ≤ |k * den - num| ∧
      (|(roundHalfEven num den : Int) * den - num| = |k * den - num| → k ≠ roundHalfEven num den →
        roundHalfEven num den % 2 = 0) := by
  have hr := Nat.mod_lt num h
  have hn := Nat.div_add_mod num den
  unfold roundHalfEven
  generalize num % den = r at *
  generalize num / den = q at *
  have hn' : (num : Int) = den * q + r := by exact_mod_cast hn.symm
  obtain ⟨j, rfl⟩ : ∃ j : Int, k = q + j := ⟨k - q, by ring⟩
  have hj : j = 0 ∧ j * (den : Int) = 0 ∨ j = 1 ∧ j * (den : Int) = den ∨
      j ≤ -1 ∧ j * (den : Int) ≤ -den ∨ 2 ≤ j ∧ 2 * den ≤ j * (den : Int) := by
    rcases (by omega : j = 0 ∨ j = 1 ∨ j ≤ -1 ∨ 2 ≤ j) with h | h | h | h
    · simp [h]
    · simp [h]
    · refine .inr (.inr (.inl ⟨h, by nlinarith⟩))
    · refine .inr (.inr (.inr ⟨h, by nlinarith⟩))
  have e1 : ((q : Int) + j) * den - num = j * den - r := by rw [hn']; ring
  have e0 : (q : Int) * den - num = -r := by rw [hn']; ring
  have e2 : ((q : Int) + 1) * den - num = den - r := by rw [hn']; ring
  rw [e1]
  generalize j * (den : Int) = jd at *
  clear hn hn' e1
  split_ifs with h1 h2
  · rw [e0, abs_neg, Nat.abs_cast]
    rcases abs_cases (jd - r) with ⟨h, _⟩ | ⟨h, _⟩ <;> rw [h] <;> omega
  · push_cast; rw [e2, abs_of_pos (by omega : (0 : Int) < den - r)]
    rcases abs_cases (jd - r) with ⟨h, _⟩ | ⟨h, _⟩ <;> rw [h] <;> omega
  · rcases Nat.mod_two_eq_zero_or_one q with hp | hp
    · simp only [hp, Nat.add_zero]; rw [e0, abs_neg, Nat.abs_cast]
      rcases abs_cases (jd - r) with ⟨h, _⟩ | ⟨h, _⟩ <;> rw [h] <;> exact ⟨by omega, fun _ _ => trivial⟩
    · simp only [hp]; push_cast; rw [e2, abs_of_pos (by omega : (0 : Int) < den - r)]
      rcases abs_cases (jd - r) with ⟨h, _⟩ | ⟨h, _⟩ <;> rw [h] <;> omega

/-- The rounded quotient is a nearest integer, and where another is as near it is even. -/
theorem roundHalfEven_nearest (num den : Nat) (h : 0 < den) (k : Int) :
    |(roundHalfEven num den : ℚ) - num / den| ≤ |(k : ℚ) - num / den| ∧
      (|(roundHalfEven num den : ℚ) - num / den| = |(k : ℚ) - num / den| → k ≠ roundHalfEven num den →
        roundHalfEven num den % 2 = 0) := by
  have hd : (0 : ℚ) < den := by exact_mod_cast h
  have key : ∀ m : Int, |(m : ℚ) - num / den| * den = ((|m * den - num| : Int) : ℚ) := by
    intro m
    rw [← abs_of_pos hd, ← abs_mul, abs_of_pos hd]; push_cast; congr 1; field_simp
  have k1 := key (roundHalfEven num den)
  have k2 := key k
  obtain ⟨h1, h2⟩ := roundHalfEven_int num den h k
  rw [Int.cast_natCast] at k1
  refine ⟨le_of_mul_le_mul_right ?_ hd, fun he => h2 ?_⟩
  · rw [k2, k1]; exact_mod_cast h1
  · rw [he, k2] at k1; exact_mod_cast k1.symm

/-- `floorLog2` is the floor of the binary logarithm. -/
theorem floorLog2_spec (num den : Nat) (hn : 0 < num) (hd : 0 < den) :
    (2 : ℚ) ^ floorLog2 num den ≤ num / den ∧ (num : ℚ) / den < 2 ^ (floorLog2 num den + 1) := by
  have hdq : (0 : ℚ) < den := by exact_mod_cast hd
  have a1 : (2 : ℚ) ^ num.log2 ≤ num := by exact_mod_cast Nat.log2_self_le hn.ne'
  have a2 : (num : ℚ) < 2 ^ (num.log2 + 1) := by exact_mod_cast Nat.lt_log2_self
  have b1 : (2 : ℚ) ^ den.log2 ≤ den := by exact_mod_cast Nat.log2_self_le hd.ne'
  have b2 : (den : ℚ) < 2 ^ (den.log2 + 1) := by exact_mod_cast Nat.lt_log2_self
  have hiff : ∀ e : Int, (den * 2 ^ e.toNat ≤ num * 2 ^ (-e).toNat) ↔ (2 : ℚ) ^ e ≤ num / den := by
    intro e
    rw [le_div_iff₀ hdq]
    rcases le_total 0 e with h | h
    · obtain ⟨n, rfl⟩ := Int.eq_ofNat_of_zero_le h
      simp only [Int.toNat_natCast, zpow_natCast, Int.toNat_neg_natCast, pow_zero, mul_one]
      rw [mul_comm]; exact_mod_cast Iff.rfl
    · obtain ⟨n, hn⟩ := Int.eq_ofNat_of_zero_le (Int.neg_nonneg.mpr h)
      obtain rfl : e = -(n : Int) := by omega
      simp only [Int.toNat_neg_natCast, neg_neg, Int.toNat_natCast, zpow_neg, zpow_natCast, pow_zero, mul_one]
      rw [inv_mul_le_iff₀ (by positivity), mul_comm]; exact_mod_cast Iff.rfl
  have hup : (num : ℚ) / den < 2 ^ (((num.log2 : Int) - den.log2) + 1) := by
    rw [div_lt_iff₀ hdq]
    calc (num : ℚ) < 2 ^ (num.log2 + 1) := a2
      _ = 2 ^ (((num.log2 : Int) - den.log2) + 1) * 2 ^ den.log2 := by
        rw [← zpow_natCast, ← zpow_natCast, ← zpow_add₀ (by norm_num)]; congr 1; push_cast; ring
      _ ≤ _ := by gcongr
  have hlo : (2 : ℚ) ^ (((num.log2 : Int) - den.log2) - 1) ≤ num / den := by
    rw [le_div_iff₀ hdq]
    calc (2 : ℚ) ^ (((num.log2 : Int) - den.log2) - 1) * den
        ≤ 2 ^ (((num.log2 : Int) - den.log2) - 1) * 2 ^ (den.log2 + 1) := by gcongr
      _ = 2 ^ num.log2 := by
        rw [← zpow_natCast, ← zpow_natCast, ← zpow_add₀ (by norm_num)]; congr 1; push_cast; ring
      _ ≤ _ := a1
  unfold floorLog2
  simp only
  split_ifs with h
  · exact ⟨(hiff _).1 h, hup⟩
  · refine ⟨hlo, ?_⟩
    rw [sub_add_cancel]; exact lt_of_not_ge fun hh => h ((hiff _).2 hh)

/-- The 24-bit significand of a magnitude (G3). -/
def sigOf (M : Nat) : Nat := if M / 2 ^ 23 = 0 then M else 2 ^ 23 + M % 2 ^ 23
/-- The biased exponent a magnitude's significand is scaled by; a subnormal has that of the smallest normal (G3). -/
def expOf (M : Nat) : Nat := max (M / 2 ^ 23) 1

/-- A significand has 24 bits. -/
theorem sigOf_lt (M : Nat) : sigOf M < 2 ^ 24 := by unfold sigOf; split <;> omega

/-- The value of an image by its sign and magnitude. -/
theorem binary32Value_ofNat (b : Bool) (M : Nat) (h : M < 2 ^ 31) :
    binary32Value (BitVec.ofNat 32 ((if b then 2 ^ 31 else 0) + M)) =
      (if b then -1 else 1) * ((sigOf M : ℚ) * 2 ^ ((expOf M : Int) - 150)) := by
  have e1 : (BitVec.ofNat 32 ((if b then 2 ^ 31 else 0) + M)).getLsbD 31 = b := by
    rw [BitVec.getLsbD_ofNat, Nat.testBit_eq_decide_div_mod_eq]
    cases b <;> (simp; omega)
  have e2 : ((BitVec.ofNat 32 ((if b then 2 ^ 31 else 0) + M)).extractLsb' 23 8).toNat = M / 2 ^ 23 := by
    simp only [BitVec.extractLsb'_toNat, BitVec.toNat_ofNat, Nat.shiftRight_eq_div_pow]
    cases b <;> simp <;> omega
  have e3 : ((BitVec.ofNat 32 ((if b then 2 ^ 31 else 0) + M)).extractLsb' 0 23).toNat = M % 2 ^ 23 := by
    simp only [BitVec.extractLsb'_toNat, BitVec.toNat_ofNat, Nat.shiftRight_eq_div_pow]
    cases b <;> simp
    omega
  unfold binary32Value
  simp only [e1, e2, e3]
  unfold sigOf expOf
  rcases Nat.eq_zero_or_pos (M / 2 ^ 23) with h0 | h0
  · have : M % 2 ^ 23 = M := by omega
    rw [h0, this, if_pos rfl, if_pos rfl, Nat.zero_max, div_eq_mul_inv]; norm_num
  · rw [if_neg h0.ne', if_neg h0.ne', max_eq_left h0, zpow_sub₀ (by norm_num), zpow_natCast, mul_div_assoc]; rfl

/-- Every image is a sign and a magnitude. -/
theorem exists_sign_mag (v : BitVec 32) :
    ∃ (b : Bool) (M : Nat), M < 2 ^ 31 ∧ v = BitVec.ofNat 32 ((if b then 2 ^ 31 else 0) + M) := by
  refine ⟨decide (2 ^ 31 ≤ v.toNat), v.toNat % 2 ^ 31, Nat.mod_lt _ (by norm_num), ?_⟩
  have := v.isLt
  apply BitVec.eq_of_toNat_eq
  rw [BitVec.toNat_ofNat]
  simp only [decide_eq_true_eq]
  split <;> omega

/-- The magnitude built from an exponent and an integer significand has the value of that significand in its scale,
also where the significand has rounded up to the next power of two. -/
theorem mag_value (e : Int) (m : Nat) (he : -126 ≤ e) (hm : m ≤ 2 ^ 24) (h : 2 ^ 23 ≤ m ∨ e = -126) :
    (sigOf ((e + 126).toNat * 2 ^ 23 + m) : ℚ) * 2 ^ ((expOf ((e + 126).toNat * 2 ^ 23 + m) : Int) - 150) =
      m * 2 ^ (e - 23) := by
  obtain ⟨n, rfl⟩ : ∃ n : Nat, e = n - 126 := ⟨(e + 126).toNat, by omega⟩
  have : ((n : Int) - 126 + 126).toNat = n := by omega
  rw [this]
  rcases (by omega : m < 2 ^ 23 ∨ (2 ^ 23 ≤ m ∧ m < 2 ^ 24) ∨ m = 2 ^ 24) with h' | h' | h'
  · obtain rfl : n = 0 := by omega
    have h0 : (0 * 2 ^ 23 + m) / 2 ^ 23 = 0 := by omega
    unfold sigOf expOf
    rw [h0, if_pos rfl]; norm_num
  · have h0 : (n * 2 ^ 23 + m) / 2 ^ 23 = n + 1 := by omega
    have h1 : 2 ^ 23 + (n * 2 ^ 23 + m) % 2 ^ 23 = m := by omega
    unfold sigOf expOf
    rw [h0, if_neg (by omega), h1, max_eq_left (by omega)]
    congr 2; push_cast; ring
  · have h0 : (n * 2 ^ 23 + m) / 2 ^ 23 = n + 2 := by omega
    have h1 : 2 ^ 23 + (n * 2 ^ 23 + m) % 2 ^ 23 = 2 ^ 23 := by omega
    unfold sigOf expOf
    rw [h0, if_neg (by omega), h1, max_eq_left (by omega), h']
    have : ((n + 2 : Nat) : Int) - 150 = ((n : Int) - 126 - 23) + 1 := by push_cast; ring
    rw [this, zpow_add_one₀ (by norm_num)]; push_cast; ring

/-- A fraction scaled by a power of two with natural numbers only. -/
theorem scaled_ratio (num den : Nat) (sh : Int) (hd : 0 < den) :
    ((num * 2 ^ sh.toNat : Nat) : ℚ) / (den * 2 ^ (-sh).toNat : Nat) = num / den * 2 ^ sh := by
  have : (den : ℚ) ≠ 0 := by exact_mod_cast hd.ne'
  rcases le_total 0 sh with h | h
  · obtain ⟨n, rfl⟩ := Int.eq_ofNat_of_zero_le h
    simp only [Int.toNat_natCast, Int.toNat_neg_natCast, zpow_natCast]
    push_cast; field_simp
  · obtain ⟨n, hn⟩ := Int.eq_ofNat_of_zero_le (Int.neg_nonneg.mpr h)
    obtain rfl : sh = -(n : Int) := by omega
    simp only [Int.toNat_neg_natCast, neg_neg, Int.toNat_natCast, zpow_neg, zpow_natCast]
    push_cast; field_simp

/-- The magnitude of a positive fraction: exponent and integer significand, nearest in its scale. -/
theorem binary32Magnitude_spec (num den : Nat) (hn : 0 < num) (hd : 0 < den)
    (hmax : (num : ℚ) / den ≤ binary32Max) :
    ∃ (e : Int) (m : Nat), binary32Magnitude num den = (e + 126).toNat * 2 ^ 23 + m ∧ -126 ≤ e ∧ m ≤ 2 ^ 24 ∧
      (e + 126).toNat * 2 ^ 23 + m < 255 * 2 ^ 23 ∧
      (e = -126 ∨ 2 ^ 23 ≤ m ∧ (2 : ℚ) ^ e ≤ num / den) ∧
      ∀ k : Int, |(m : ℚ) - num / den * 2 ^ (23 - e)| ≤ |(k : ℚ) - num / den * 2 ^ (23 - e)| ∧
        (|(m : ℚ) - num / den * 2 ^ (23 - e)| = |(k : ℚ) - num / den * 2 ^ (23 - e)| → k ≠ m → m % 2 = 0) := by
  obtain ⟨hlo, hup⟩ := floorLog2_spec num den hn hd
  set e := max (floorLog2 num den) (-126) with he
  set m := roundHalfEven (num * 2 ^ (23 - e).toNat) (den * 2 ^ (-(23 - e)).toNat) with hm
  set x : ℚ := (num : ℚ) / den with hx
  have hspec : ∀ k : Int, |(m : ℚ) - x * 2 ^ (23 - e)| ≤ |(k : ℚ) - x * 2 ^ (23 - e)| ∧
        (|(m : ℚ) - x * 2 ^ (23 - e)| = |(k : ℚ) - x * 2 ^ (23 - e)| → k ≠ m → m % 2 = 0) := by
    intro k
    have := roundHalfEven_nearest (num * 2 ^ (23 - e).toNat) (den * 2 ^ (-(23 - e)).toNat) (by positivity) k
    rwa [scaled_ratio num den _ hd] at this
  -- bounds by integers pass through the rounding
  have hle : ∀ n : Nat, x * 2 ^ (23 - e) ≤ n → m ≤ n := by
    intro n h
    by_contra hc
    have h1 := (hspec n).1
    have hc' : (n : ℚ) + 1 ≤ m := by exact_mod_cast (by omega : n + 1 ≤ m)
    rw [Int.cast_natCast, abs_of_nonneg (by linarith), abs_of_nonneg (by linarith)] at h1
    linarith
  have hge : ∀ n : Nat, (n : ℚ) ≤ x * 2 ^ (23 - e) → n ≤ m := by
    intro n h
    by_contra hc
    have h1 := (hspec n).1
    have hc' : (m : ℚ) + 1 ≤ n := by exact_mod_cast (by omega : m + 1 ≤ n)
    rw [Int.cast_natCast, abs_of_nonpos (by linarith), abs_of_nonpos (by linarith)] at h1
    linarith
  have hscale : ∀ f : Int, (2 : ℚ) ^ f * 2 ^ (23 - e) = 2 ^ (f + 23 - e) := by
    intro f; rw [← zpow_add₀ (by norm_num)]; congr 1; ring
  have hmle : m ≤ 2 ^ 24 := by
    apply hle
    calc x * 2 ^ (23 - e) ≤ 2 ^ (e + 1) * 2 ^ (23 - e) := by
          gcongr
          exact hup.le.trans (zpow_le_zpow_right₀ (by norm_num) (by omega))
      _ = _ := by rw [hscale, show e + 1 + 23 - e = ((24 : Nat) : Int) by push_cast; ring, zpow_natCast]; norm_num
  have hmge : e = -126 ∨ 2 ^ 23 ≤ m ∧ (2 : ℚ) ^ e ≤ x := by
    rcases eq_or_ne e (-126) with h | h
    · exact .inl h
    · have hfe : floorLog2 num den = e := by omega
      rw [hfe] at hlo
      refine .inr ⟨hge _ ?_, hlo⟩
      calc ((2 ^ 23 : Nat) : ℚ) = 2 ^ e * 2 ^ (23 - e) := by
            rw [hscale, show e + 23 - e = ((23 : Nat) : Int) by push_cast; ring, zpow_natCast]; norm_num
        _ ≤ _ := by gcongr
  have hfin : (e + 126).toNat * 2 ^ 23 + m < 255 * 2 ^ 23 := by
    have h127 : e ≤ 127 := by
      rcases hmge with h | ⟨-, h⟩
      · omega
      · by_contra hc
        have : (2 : ℚ) ^ (128 : Int) ≤ 2 ^ e := zpow_le_zpow_right₀ (by norm_num) (by omega)
        have h3 := this.trans (h.trans hmax)
        norm_num [binary32Max] at h3
    rcases (by omega : e ≤ 126 ∨ e = 127) with h | h
    · have : (e + 126).toNat ≤ 252 := by omega
      omega
    · have : m ≤ 2 ^ 24 - 1 := by
        apply hle
        rw [h]
        calc x * 2 ^ (23 - 127 : Int) ≤ binary32Max * 2 ^ (23 - 127 : Int) := by gcongr
          _ = _ := by norm_num [binary32Max]
      rw [h]; omega
  refine ⟨e, m, ?_, by omega, hmle, hfin, hmge, hspec⟩
  unfold binary32Magnitude
  simp only
  rw [← he, ← hm]
  exact min_eq_left (by omega)

end Sys2Proof.Machine
end

