-- ==== Sys2Proof/Laws/State.lean ====
section
/-! SUPPORT. One lemma per field of State per update, all by definition: what a shared update writes, and that it
leaves every other field alone. -/

namespace Sys2Proof.Machine

@[simp] theorem State.transmit_busAddress (s : State) (bytes : List Byte) :
    (s.transmit bytes).busAddress = s.busAddress := rfl
@[simp] theorem State.transmit_phase (s : State) (bytes : List Byte) : (s.transmit bytes).phase = s.phase := rfl
@[simp] theorem State.transmit_work (s : State) (bytes : List Byte) : (s.transmit bytes).work = s.work := rfl
@[simp] theorem State.transmit_requests (s : State) (bytes : List Byte) :
    (s.transmit bytes).requests = s.requests := rfl
@[simp] theorem State.transmit_transport (s : State) (bytes : List Byte) :
    (s.transmit bytes).transport = { s.transport.spend with statuses := s.transport.statuses.tail } := rfl
@[simp] theorem State.transmit_trace (s : State) (bytes : List Byte) :
    (s.transmit bytes).trace = s.trace ++ [.tx s.busAddress bytes s.nextStatus] := rfl
@[simp] theorem State.transmit_drawn (s : State) (bytes : List Byte) : (s.transmit bytes).drawn = s.drawn + 1 := rfl

@[simp] theorem State.request_busAddress (s : State) (count : Nat) :
    (s.request count).busAddress = s.busAddress := rfl
@[simp] theorem State.request_phase (s : State) (count : Nat) : (s.request count).phase = s.phase := rfl
@[simp] theorem State.request_work (s : State) (count : Nat) : (s.request count).work = s.work := rfl
@[simp] theorem State.request_requests (s : State) (count : Nat) : (s.request count).requests = s.requests := rfl
@[simp] theorem State.request_transport (s : State) (count : Nat) :
    (s.request count).transport = { s.transport.spend with answers := s.transport.answers.tail } := rfl
@[simp] theorem State.request_trace (s : State) (count : Nat) :
    (s.request count).trace = s.trace ++ [.rx s.busAddress count s.nextBytes] := rfl
@[simp] theorem State.request_drawn (s : State) (count : Nat) : (s.request count).drawn = s.drawn + 1 := rfl

@[simp] theorem State.delay_busAddress (s : State) (ms : Millis) : (s.delay ms).busAddress = s.busAddress := rfl
@[simp] theorem State.delay_phase (s : State) (ms : Millis) : (s.delay ms).phase = s.phase := rfl
@[simp] theorem State.delay_work (s : State) (ms : Millis) : (s.delay ms).work = s.work := rfl
@[simp] theorem State.delay_requests (s : State) (ms : Millis) : (s.delay ms).requests = s.requests := rfl
@[simp] theorem State.delay_transport (s : State) (ms : Millis) : (s.delay ms).transport = s.transport.spend := rfl
@[simp] theorem State.delay_trace (s : State) (ms : Millis) : (s.delay ms).trace = s.trace ++ [.wait ms] := rfl
@[simp] theorem State.delay_drawn (s : State) (ms : Millis) : (s.delay ms).drawn = s.drawn + 1 := rfl

@[simp] theorem State.goto_busAddress (s : State) (p : SeqStep) : (s.goto p).busAddress = s.busAddress := rfl
@[simp] theorem State.goto_phase (s : State) (p : SeqStep) : (s.goto p).phase = s.phase := rfl
@[simp] theorem State.goto_work (s : State) (p : SeqStep) : (s.goto p).work = { s.work with step := p } := rfl
@[simp] theorem State.goto_requests (s : State) (p : SeqStep) : (s.goto p).requests = s.requests := rfl
@[simp] theorem State.goto_transport (s : State) (p : SeqStep) : (s.goto p).transport = s.transport := rfl
@[simp] theorem State.goto_trace (s : State) (p : SeqStep) : (s.goto p).trace = s.trace := rfl
@[simp] theorem State.goto_drawn (s : State) (p : SeqStep) : (s.goto p).drawn = s.drawn := rfl

@[simp] theorem State.accept_busAddress (s : State) (code : BitVec 2) (p : SeqStep) :
    (s.accept code p).busAddress = s.busAddress := rfl
@[simp] theorem State.accept_phase (s : State) (code : BitVec 2) (p : SeqStep) :
    (s.accept code p).phase = .busy := rfl
@[simp] theorem State.accept_work (s : State) (code : BitVec 2) (p : SeqStep) :
    (s.accept code p).work = { s.work with step := p, op := code, txe := 0#2, n := 0 } := rfl
@[simp] theorem State.accept_requests (s : State) (code : BitVec 2) (p : SeqStep) :
    (s.accept code p).requests = s.requests := rfl
@[simp] theorem State.accept_transport (s : State) (code : BitVec 2) (p : SeqStep) :
    (s.accept code p).transport = s.transport := rfl
@[simp] theorem State.accept_trace (s : State) (code : BitVec 2) (p : SeqStep) :
    (s.accept code p).trace = s.trace := rfl
@[simp] theorem State.accept_drawn (s : State) (code : BitVec 2) (p : SeqStep) :
    (s.accept code p).drawn = s.drawn := rfl

@[simp] theorem State.respond_busAddress (s : State) (r : Response) : (s.respond r).busAddress = s.busAddress := rfl
@[simp] theorem State.respond_phase (s : State) (r : Response) : (s.respond r).phase = .idle := rfl
@[simp] theorem State.respond_work (s : State) (r : Response) :
    (s.respond r).work = Config.unspecifiedWork s.drawn := rfl
@[simp] theorem State.respond_requests (s : State) (r : Response) : (s.respond r).requests = s.requests := rfl
@[simp] theorem State.respond_transport (s : State) (r : Response) : (s.respond r).transport = s.transport := rfl
@[simp] theorem State.respond_trace (s : State) (r : Response) : (s.respond r).trace = s.trace ++ [.resp r] := rfl
@[simp] theorem State.respond_drawn (s : State) (r : Response) : (s.respond r).drawn = s.drawn + 1 := rfl

@[simp] theorem State.raise_busAddress (s : State) (e : OpError) : (s.raise e).busAddress = s.busAddress := rfl
@[simp] theorem State.raise_phase (s : State) (e : OpError) : (s.raise e).phase = .idle := rfl
@[simp] theorem State.raise_work (s : State) (e : OpError) : (s.raise e).work = Config.unspecifiedWork s.drawn := rfl
@[simp] theorem State.raise_requests (s : State) (e : OpError) : (s.raise e).requests = s.requests := rfl
@[simp] theorem State.raise_transport (s : State) (e : OpError) : (s.raise e).transport = s.transport := rfl
@[simp] theorem State.raise_trace (s : State) (e : OpError) :
    (s.raise e).trace = s.trace ++ [.resp (s.failure e)] := rfl
@[simp] theorem State.raise_drawn (s : State) (e : OpError) : (s.raise e).drawn = s.drawn + 1 := rfl

@[simp] theorem State.recordSend_busAddress (s : State) (e : TxStatus) :
    (s.recordSend e).busAddress = s.busAddress := rfl
@[simp] theorem State.recordSend_phase (s : State) (e : TxStatus) : (s.recordSend e).phase = s.phase := rfl
@[simp] theorem State.recordSend_work (s : State) (e : TxStatus) :
    (s.recordSend e).work = { s.work with txe := setBit s.work.txe s.work.n e.isErr, n := s.work.n + 1 } := rfl
@[simp] theorem State.recordSend_requests (s : State) (e : TxStatus) : (s.recordSend e).requests = s.requests := rfl
@[simp] theorem State.recordSend_transport (s : State) (e : TxStatus) :
    (s.recordSend e).transport = s.transport := rfl
@[simp] theorem State.recordSend_trace (s : State) (e : TxStatus) : (s.recordSend e).trace = s.trace := rfl
@[simp] theorem State.recordSend_drawn (s : State) (e : TxStatus) : (s.recordSend e).drawn = s.drawn := rfl

@[simp] theorem State.setMismatch_busAddress (s : State) (i : Nat) (b : Bool) :
    (s.setMismatch i b).busAddress = s.busAddress := rfl
@[simp] theorem State.setMismatch_phase (s : State) (i : Nat) (b : Bool) : (s.setMismatch i b).phase = s.phase := rfl
@[simp] theorem State.setMismatch_work (s : State) (i : Nat) (b : Bool) :
    (s.setMismatch i b).work = { s.work with m := setBit s.work.m i b } := rfl
@[simp] theorem State.setMismatch_requests (s : State) (i : Nat) (b : Bool) :
    (s.setMismatch i b).requests = s.requests := rfl
@[simp] theorem State.setMismatch_transport (s : State) (i : Nat) (b : Bool) :
    (s.setMismatch i b).transport = s.transport := rfl
@[simp] theorem State.setMismatch_trace (s : State) (i : Nat) (b : Bool) : (s.setMismatch i b).trace = s.trace := rfl
@[simp] theorem State.setMismatch_drawn (s : State) (i : Nat) (b : Bool) : (s.setMismatch i b).drawn = s.drawn := rfl

@[simp] theorem State.storeCount_busAddress (s : State) (rx : List Byte) :
    (s.storeCount rx).busAddress = s.busAddress := rfl
@[simp] theorem State.storeCount_phase (s : State) (rx : List Byte) : (s.storeCount rx).phase = s.phase := rfl
@[simp] theorem State.storeCount_work (s : State) (rx : List Byte) :
    (s.storeCount rx).work = { s.work with k := byteCount rx } := rfl
@[simp] theorem State.storeCount_requests (s : State) (rx : List Byte) :
    (s.storeCount rx).requests = s.requests := rfl
@[simp] theorem State.storeCount_transport (s : State) (rx : List Byte) :
    (s.storeCount rx).transport = s.transport := rfl
@[simp] theorem State.storeCount_trace (s : State) (rx : List Byte) : (s.storeCount rx).trace = s.trace := rfl
@[simp] theorem State.storeCount_drawn (s : State) (rx : List Byte) : (s.storeCount rx).drawn = s.drawn := rfl

@[simp] theorem State.storeFrame_busAddress (s : State) (rx : List Byte) :
    (s.storeFrame rx).busAddress = s.busAddress := rfl
@[simp] theorem State.storeFrame_phase (s : State) (rx : List Byte) : (s.storeFrame rx).phase = s.phase := rfl
@[simp] theorem State.storeFrame_work (s : State) (rx : List Byte) :
    (s.storeFrame rx).work = { s.work with frame := s.work.frame.fill rx } := rfl
@[simp] theorem State.storeFrame_requests (s : State) (rx : List Byte) :
    (s.storeFrame rx).requests = s.requests := rfl
@[simp] theorem State.storeFrame_transport (s : State) (rx : List Byte) :
    (s.storeFrame rx).transport = s.transport := rfl
@[simp] theorem State.storeFrame_trace (s : State) (rx : List Byte) : (s.storeFrame rx).trace = s.trace := rfl
@[simp] theorem State.storeFrame_drawn (s : State) (rx : List Byte) : (s.storeFrame rx).drawn = s.drawn := rfl

@[simp] theorem State.setCrc_busAddress (s : State) (c : Byte) : (s.setCrc c).busAddress = s.busAddress := rfl
@[simp] theorem State.setCrc_phase (s : State) (c : Byte) : (s.setCrc c).phase = s.phase := rfl
@[simp] theorem State.setCrc_work (s : State) (c : Byte) : (s.setCrc c).work = { s.work with crc := c } := rfl
@[simp] theorem State.setCrc_requests (s : State) (c : Byte) : (s.setCrc c).requests = s.requests := rfl
@[simp] theorem State.setCrc_transport (s : State) (c : Byte) : (s.setCrc c).transport = s.transport := rfl
@[simp] theorem State.setCrc_trace (s : State) (c : Byte) : (s.setCrc c).trace = s.trace := rfl
@[simp] theorem State.setCrc_drawn (s : State) (c : Byte) : (s.setCrc c).drawn = s.drawn := rfl

@[simp] theorem Transport.spend_statuses (t : Transport) : t.spend.statuses = t.statuses := rfl
@[simp] theorem Transport.spend_answers (t : Transport) : t.spend.answers = t.answers := rfl
@[simp] theorem Transport.spend_returnsLeft (t : Transport) : t.spend.returnsLeft = t.returnsLeft.map (· - 1) := rfl

end Sys2Proof.Machine
end

