-- ==== Sys2Proof/Laws/Ops.lean ====
section
/-! SUPPORT. One lemma per shared operation: everything it can do. -/

namespace Sys2Proof.Machine

/-! ### Outcomes -/

theorem andThen_next {o : Result} {f : State → Result} {t : State} :
    andThen o f = .next t ↔ ∃ s, o = .next s ∧ f s = .next t := by
  cases o <;> simp [andThen]

@[simp] theorem andThen_of_next (s : State) (f : State → Result) : andThen (.next s) f = f s := rfl

/-! ### Bits -/

/-- Setting all three bits of the mask forgets what it was. -/
theorem setBit_three (v w : BitVec 3) (a b c : Bool) :
    setBit (setBit (setBit v 0 a) 1 b) 2 c = setBit (setBit (setBit w 0 a) 1 b) 2 c := by
  revert v w a b c; decide

/-! ### Transport calls -/

theorem State.sendStep_next {s t : State} {c : Command} {p : SeqStep} :
    s.sendStep c p = .next t ↔
      s.callReturns = true ∧ ((s.transmit (encodeCommand c)).recordSend s.nextStatus).goto p = t := by
  unfold State.sendStep; split <;> simp_all

theorem State.waitStep_next {s t : State} {ms : Millis} {p : SeqStep} :
    s.waitStep ms p = .next t ↔ s.callReturns = true ∧ (s.delay ms).goto p = t := by
  unfold State.waitStep; split <;> simp_all

theorem State.requestSelfTest_next {s t : State} :
    s.requestSelfTest = .next t ↔
      s.callReturns = true ∧ ((s.request 3).storeCount s.nextBytes).goto .s3 = t := by
  unfold State.requestSelfTest; split <;> simp_all [Config.selfTestLen]

theorem State.requestFrame_next {s t : State} :
    s.requestFrame = .next t ↔
      s.callReturns = true ∧
        (((s.request 9).storeCount s.nextBytes).storeFrame s.nextBytes).goto .m5 = t := by
  unfold State.requestFrame; split <;> simp_all [Config.frameLen]

theorem State.issue_next {s t : State} {p q : SeqStep} {c : Command} :
    s.issue p c q = .next t ↔ s.phase = .busy ∧ s.work.step = p ∧ s.sendStep c q = .next t := by
  unfold State.issue State.atStep; split <;> simp_all

theorem State.nextBytes_length (s : State) : s.nextBytes.length ≤ 255 := by
  simp [State.nextBytes, Config.rxMax]

theorem byteCount_toNat {rx : List Byte} (h : rx.length ≤ 255) : (byteCount rx).toNat = rx.length := by
  simp [byteCount]; omega

/-- A call among `c + 1` that return returns, and `c` are left after it. -/
theorem State.callsReturn_succ {s : State} {c : Nat} (h : s.callsReturn (c + 1) = true) :
    s.callReturns = true ∧ ∀ t : State, t.transport.returnsLeft = s.transport.returnsLeft.map (· - 1) →
      t.callsReturn c = true := by
  unfold State.callsReturn at h
  unfold State.callReturns State.callsReturn
  cases hr : s.transport.returnsLeft with
  | none => exact ⟨by simp, fun t ht => by simp_all⟩
  | some r =>
    simp only [hr, decide_eq_true_eq] at h
    refine ⟨by simp; omega, fun t ht => ?_⟩
    simp only [ht, Option.map_some, decide_eq_true_eq]
    omega

/-! ### The CRC-8 unit and the frame -/

/-- Whatever the accumulator held, the unit ends with `CRC8` of the two bytes. -/
@[simp] theorem State.runCrc_crc (s : State) (t : Triple) : (s.runCrc t).work.crc = crc8 t.hi t.lo := rfl

/-- The check of a field sets the accumulator and one bit of the mask. -/
theorem State.checkField_eq (s : State) (i : Nat) (t : Triple) :
    s.checkField i t =
      { s with work := { s.work with crc := crc8 t.hi t.lo, m := setBit s.work.m i (!t.check) } } := by
  simp only [State.checkField, State.setMismatch, State.runCrc, State.crcConsume, State.setCrc, Triple.check, crcCheck,
    crc8, bne]

/-- The checks of M6 change `crc` and `m` alone, and leave the mask of the frame in `m`. -/
theorem State.checkFields_eq (s : State) :
    s.checkFields = { s with work := { s.work with
      crc := crc8 s.work.frame.rhHi s.work.frame.rhLo, m := s.work.frame.mismatch } } := by
  simp only [State.checkFields, State.checkField_eq, Frame.mismatch, Frame.humidity]
  rw [setBit_three s.work.m 0#3]

theorem State.checkFields_m (s : State) : s.checkFields.work.m = s.work.frame.mismatch := by
  rw [s.checkFields_eq]

/-- A sequence is short, or begins with nine bytes. -/
theorem nine_bytes (rx : List Byte) (h : 9 ≤ rx.length) :
    ∃ b0 b1 b2 b3 b4 b5 b6 b7 b8 rest, rx = b0 :: b1 :: b2 :: b3 :: b4 :: b5 :: b6 :: b7 :: b8 :: rest := by
  match rx with
  | b0 :: b1 :: b2 :: b3 :: b4 :: b5 :: b6 :: b7 :: b8 :: rest => exact ⟨b0, b1, b2, b3, b4, b5, b6, b7, b8, rest, rfl⟩
  | [] | [_] | [_, _] | [_, _, _] | [_, _, _, _] | [_, _, _, _, _] | [_, _, _, _, _, _] | [_, _, _, _, _, _, _]
  | [_, _, _, _, _, _, _, _] => simp at h

/-- A frame filled twice with one sequence is filled once. -/
theorem Frame.fill_fill (f : Frame) (rx : List Byte) : (f.fill rx).fill rx = f.fill rx := by
  simp only [Frame.fill, Frame.mk.injEq]
  refine ⟨?_, ?_, ?_, ?_, ?_, ?_, ?_, ?_, ?_⟩
  · cases rx[0]? <;> rfl
  · cases rx[1]? <;> rfl
  · cases rx[2]? <;> rfl
  · cases rx[3]? <;> rfl
  · cases rx[4]? <;> rfl
  · cases rx[5]? <;> rfl
  · cases rx[6]? <;> rfl
  · cases rx[7]? <;> rfl
  · cases rx[8]? <;> rfl

/-! ### The sequencer -/

/-- Everything a step of the sequencer can do when it answers a next state: one of the four sends, one of the four
waits, one of the two requests, or a step without a transport call. -/
theorem seqStep_cases {s t : State} (h : seqStep s = .next t) :
    (∃ c p q, s.phase = .busy ∧ s.work.step = p ∧
        (p, c, q) ∈ [(SeqStep.i0, Command.stopPeriodicMeasuring, SeqStep.i1), (.s0, .performSelfTest, .s1),
          (.m0, .measureSingleShot, .m1), (.m2, .readMeasurement, .m3)] ∧
        t = ((s.transmit (encodeCommand c)).recordSend s.nextStatus).goto q) ∨
    (∃ ms p q, s.work.step = p ∧
        (p, ms, q) ∈ [(SeqStep.i1, 500#14, SeqStep.i2), (.s1, 10000#14, .s2), (.m1, 5000#14, .m2), (.m3, 1#14, .m4)] ∧
        t = (s.delay ms).goto q) ∨
    (s.work.step = .s2 ∧ t = ((s.request 3).storeCount s.nextBytes).goto .s3) ∨
    (s.work.step = .m4 ∧ t = (((s.request 9).storeCount s.nextBytes).storeFrame s.nextBytes).goto .m5) ∨
    (s.work.step ∈ [.i2, .s3, .m5, .m6, .m7] ∧ t = s.localStep) := by
  cases hs : s.work.step <;> simp only [seqStep, hs] at h
  case i0 =>
    obtain ⟨hb, -, h⟩ := State.issue_next.1 h
    exact .inl ⟨_, _, _, hb, rfl, by simp, (State.sendStep_next.1 h).2.symm⟩
  case s0 =>
    obtain ⟨hb, -, h⟩ := State.issue_next.1 h
    exact .inl ⟨_, _, _, hb, rfl, by simp, (State.sendStep_next.1 h).2.symm⟩
  case m0 =>
    obtain ⟨hb, -, h⟩ := State.issue_next.1 h
    exact .inl ⟨_, _, _, hb, rfl, by simp, (State.sendStep_next.1 h).2.symm⟩
  case m2 =>
    obtain ⟨hb, -, h⟩ := State.issue_next.1 h
    exact .inl ⟨_, _, _, hb, rfl, by simp, (State.sendStep_next.1 h).2.symm⟩
  case i1 => exact .inr (.inl ⟨_, _, _, rfl, by simp [Config.stopSettle], (State.waitStep_next.1 h).2.symm⟩)
  case s1 => exact .inr (.inl ⟨_, _, _, rfl, by simp [Config.selfTestWait], (State.waitStep_next.1 h).2.symm⟩)
  case m1 => exact .inr (.inl ⟨_, _, _, rfl, by simp [Config.measureWait], (State.waitStep_next.1 h).2.symm⟩)
  case m3 => exact .inr (.inl ⟨_, _, _, rfl, by simp [Config.readGap], (State.waitStep_next.1 h).2.symm⟩)
  case s2 => exact .inr (.inr (.inl ⟨rfl, (State.requestSelfTest_next.1 h).2.symm⟩))
  case m4 => exact .inr (.inr (.inr (.inl ⟨rfl, (State.requestFrame_next.1 h).2.symm⟩)))
  all_goals
    cases h
    exact .inr (.inr (.inr (.inr ⟨by simp, rfl⟩)))

/-- Everything a step without a transport call can do: return a response, or go on to M6 or M7 through its gate. -/
theorem State.localStep_cases (s : State) (h : s.work.step ∈ [.i2, .s3, .m5, .m6, .m7]) :
    (s.work.step = .i2 ∧ s.localStep = s.respond (.initDone s.txe0)) ∨
    (s.work.step = .s3 ∧ s.work.k = 3#8 ∧ s.localStep = s.respond (.selfTestOk s.txe0)) ∨
    (s.work.step = .s3 ∧ s.work.k ≠ 3#8 ∧ s.localStep = s.raise (.unexpectedResponseLength s.work.k)) ∨
    (s.work.step = .m5 ∧ s.work.k < 9#8 ∧ s.localStep = s.raise (.shortRead s.work.k)) ∨
    (s.work.step = .m5 ∧ ¬ s.work.k < 9#8 ∧ s.localStep = s.goto .m6) ∨
    (s.work.step = .m6 ∧ s.work.frame.mismatch = 0#3 ∧ s.localStep = s.checkFields.goto .m7) ∨
    (s.work.step = .m6 ∧ s.work.frame.mismatch ≠ 0#3 ∧
      s.localStep = s.checkFields.raise (.checksumMismatch s.work.frame.mismatch)) ∨
    (s.work.step = .m7 ∧ s.localStep = s.deliverMeasurement) := by
  cases hs : s.work.step <;> simp only [hs, List.mem_cons, List.not_mem_nil, reduceCtorEq, or_self, or_false] at h
  case i2 => exact .inl ⟨rfl, by simp [State.localStep, hs]⟩
  case s3 =>
    by_cases hk : s.work.k = 3#8
    · exact .inr (.inl ⟨rfl, hk, by simp [State.localStep, hs, State.checkSelfTest, hk]⟩)
    · exact .inr (.inr (.inl ⟨rfl, hk, by simp [State.localStep, hs, State.checkSelfTest, hk]⟩))
  case m5 =>
    by_cases hk : s.work.k < 9#8
    · exact .inr (.inr (.inr (.inl ⟨rfl, hk, by simp only [State.localStep, hs, State.gateLength, if_pos hk]⟩)))
    · exact .inr (.inr (.inr (.inr (.inl ⟨rfl, hk, by simp only [State.localStep, hs, State.gateLength, if_neg hk]⟩))))
  case m6 =>
    by_cases hm : s.work.frame.mismatch = 0#3
    · exact .inr (.inr (.inr (.inr (.inr (.inl
        ⟨rfl, hm, by simp only [State.localStep, hs, State.validateFrame, s.checkFields_m, if_pos hm]⟩)))))
    · exact .inr (.inr (.inr (.inr (.inr (.inr (.inl
        ⟨rfl, hm, by simp only [State.localStep, hs, State.validateFrame, s.checkFields_m, if_neg hm]⟩))))))
  case m7 => exact .inr (.inr (.inr (.inr (.inr (.inr (.inr ⟨rfl, by simp only [State.localStep, hs]⟩))))))

/-- Everything a step of the machine can do when it answers a next state. -/
theorem step_cases {s t : State} (h : step s = .next t) :
    (s.phase = .busy ∧ seqStep s = .next t) ∨
    (s.phase = .idle ∧ s.requests = [] ∧ t = s) ∨
    (s.phase = .idle ∧ ∃ q rest i bs, s.requests = q :: rest ∧ decodeRequest q = .instr i bs ∧
      exec i { s with requests := rest } = .next t) := by
  unfold step State.fetch at h
  cases hp : s.phase with
  | busy => simp only [hp] at h; exact .inl ⟨rfl, h⟩
  | idle =>
    cases hr : s.requests with
    | nil => simp only [hp, hr] at h; cases h; exact .inr (.inl ⟨rfl, rfl, rfl⟩)
    | cons q rest =>
      cases hd : decodeRequest q with
      | reject why => simp [hp, hr, hd] at h
      | instr i bs => simp only [hp, hr, hd] at h; exact .inr (.inr ⟨rfl, q, rest, i, bs, rfl, hd, h⟩)

end Sys2Proof.Machine
end

