-- ==== Sys2Proof/Laws/PerInstr.lean ====
section
/-! SUPPORT. The opcode table, one lemma per constructor of Instr. -/

namespace Sys2Proof.Laws.TableRow

/-- The row of an instruction: it is well-formed, its bytes fill the row's bits, and the decoder reads it from its
word of the table. -/
def Statement (i : Instr) : Prop :=
  i.wf = true ∧ 8 * (encode i).length = i.format.tableBits ∧
    decodeTableWord i.format.tableBits (tableWord i) = some i

theorem opInitialize : Statement .opInitialize := by unfold Statement; decide
theorem opSelfTest : Statement .opSelfTest := by unfold Statement; decide
theorem opReadMeasurement : Statement .opReadMeasurement := by unfold Statement; decide
theorem cmdGetStatus : Statement .cmdGetStatus := by unfold Statement; decide
theorem cmdStartPeriodicMeasuring : Statement .cmdStartPeriodicMeasuring := by unfold Statement; decide
theorem cmdReadMeasurement : Statement .cmdReadMeasurement := by unfold Statement; decide
theorem cmdStopPeriodicMeasuring : Statement .cmdStopPeriodicMeasuring := by unfold Statement; decide
theorem cmdMeasureSingleShot : Statement .cmdMeasureSingleShot := by unfold Statement; decide
theorem cmdPerformSelfTest : Statement .cmdPerformSelfTest := by unfold Statement; decide

end Sys2Proof.Laws.TableRow
end

