-- ==== Sys2Proof/Tests/Slice0.lean ====
section
/-! SUPPORT. The model's own tests: expected values from the spec's tables and worked examples (95_test_vectors and the
rules named), and for every statement with hypotheses a state that meets them. -/

namespace Sys2Proof.Tests

open Sys2Proof Sys2Proof.Machine

/-! ### Small states -/

/-- An Idle block at the sample address 0x62 with a host, statuses and answers lined up. -/
def idleAt (qs : List HostRequest) (es : List TxStatus) (rxs : List (List Byte)) : State :=
  { busAddress := 0x62#7, phase := .idle, work := Work.reset, requests := qs,
    transport := { statuses := es, answers := rxs, returnsLeft := none }, trace := [], drawn := 0 }

/-- A Busy block at step `p` of its column, with the transients a run would have there. -/
def busyAt (p : SeqStep) (es : List TxStatus) (rxs : List (List Byte)) : State :=
  { idleAt [] es rxs with phase := .busy, work := { Work.reset with step := p, op := p.code, n := p.sends } }

/-- The events a step shows, or none where it answers no next state. -/
def shown (o : Result) : List Event :=
  match o with
  | .next s => s.trace
  | .fault _ => []
  | .refused _ => []

/-- The phase, step, send counter and `txe` after a step. -/
def control (o : Result) : Option (Phase × SeqStep × Nat × BitVec 2) :=
  match o with
  | .next s => some (s.phase, s.work.step, s.work.n, s.work.txe)
  | .fault _ => none
  | .refused _ => none

/-- Whether a step answers a next state, a fault or a refusal. -/
def isNext : Result → Bool
  | .next _ => true
  | .fault _ => false
  | .refused _ => false

/-- Frame F1 of 95_test_vectors 2.3. -/
def frameOne : List Byte := [0x02#8, 0xBC#8, 0x9A#8, 0x80#8, 0x00#8, 0xA2#8, 0x80#8, 0x00#8, 0xA2#8]

/-! ### Well-formedness: an ill-formed term for each check -/

theorem test_wf_instr : Instr.wf .cmdGetStatus = true := by decide
theorem test_wf_reserved_code : HostRequest.wf (.operation 0b11#2) = false := by decide
theorem test_wf_command_attempt : HostRequest.wf (.command 0xEC05#16) = false := by decide
theorem test_wf_operation : HostRequest.wf (.operation 0b10#2) = true := by decide
theorem test_wf_rx_256 : rxWf (List.replicate 256 0#8) = false := by decide +kernel
theorem test_wf_rx_255 : rxWf (List.replicate 255 0#8) = true := by decide +kernel

/-! ### Decoding: words written out from R67 and R71 -/

theorem test_decode_opInitialize : decode .op [0b00000000#8] = .instr .opInitialize [] := by decide
theorem test_decode_opSelfTest : decode .op [0b00000001#8] = .instr .opSelfTest [] := by decide
theorem test_decode_opReadMeasurement : decode .op [0b00000010#8] = .instr .opReadMeasurement [] := by decide
theorem test_decode_cmdGetStatus : decode .cmd16 [0b11100100#8, 0b10001000#8] = .instr .cmdGetStatus [] := by decide
theorem test_decode_cmdStartPeriodic :
    decode .cmd16 [0b00100001#8, 0b10110001#8] = .instr .cmdStartPeriodicMeasuring [] := by decide
theorem test_decode_cmdReadMeasurement :
    decode .cmd16 [0b11101100#8, 0b00000101#8] = .instr .cmdReadMeasurement [] := by decide
theorem test_decode_cmdStopPeriodic :
    decode .cmd16 [0b00111111#8, 0b10000110#8] = .instr .cmdStopPeriodicMeasuring [] := by decide
theorem test_decode_cmdMeasureSingleShot :
    decode .cmd16 [0b00100001#8, 0b10011101#8] = .instr .cmdMeasureSingleShot [] := by decide
theorem test_decode_cmdPerformSelfTest :
    decode .cmd16 [0b00110110#8, 0b00111001#8] = .instr .cmdPerformSelfTest [] := by decide
theorem test_decode_reserved : decode .op [0b00000011#8] = .reject .reservedOperation := by decide
theorem test_decode_over_two_bits : decode .op [0b00000100#8] = .reject .operationOverTwoBits := by decide
/-- READ_MEASUREMENT with its bytes swapped is no command (95_test_vectors 2.2). -/
theorem test_decode_little_endian : decode .cmd16 [0x05#8, 0xEC#8] = .reject (.notACommand 0x05EC#16) := by decide
theorem test_decode_short : decode .cmd16 [0xEC#8] = .reject .missingBytes := by decide

/-! ### The CRC-8 unit: V1 to V4 and the table of 95_test_vectors 2.1 -/

theorem test_crc_table :
    crc8 0x00#8 0x00#8 = 0x81#8 ∧ crc8 0xBE#8 0xEF#8 = 0x92#8 ∧ crc8 0x02#8 0xBC#8 = 0x9A#8 ∧
      crc8 0x80#8 0x00#8 = 0xA2#8 ∧ crc8 0xFF#8 0xFF#8 = 0xAC#8 ∧ crc8 0xFF#8 0x00#8 = 0x00#8 ∧
      crc8 0xBC#8 0x02#8 = 0xC6#8 ∧ crc8 0x12#8 0x34#8 = 0x37#8 := by decide +kernel
theorem test_crc_bit_table :
    crc8Bit 0x01#8 = 0x02#8 ∧ crc8Bit 0x7F#8 = 0xFE#8 ∧ crc8Bit 0xC0#8 = 0xB1#8 ∧ crc8Bit 0x98#8 = 0x01#8 := by decide

/-! ### The frame parser: 95_test_vectors 2.3 -/

theorem test_parse_accepts_f1 : parseFrame frameOne = .values 700#16 32768#16 32768#16 := by decide +kernel
/-- F15: bytes 2 and 8 changed. -/
theorem test_parse_names_two_fields :
    parseFrame [0x02#8, 0xBC#8, 0x9B#8, 0x80#8, 0x00#8, 0xA2#8, 0x80#8, 0x00#8, 0xA3#8] = .checksumMismatch 0b101#3 := by
  decide +kernel
theorem test_parse_bus_stuck_low : parseFrame (List.replicate 9 0x00#8) = .checksumMismatch 0b111#3 := by decide +kernel
theorem test_parse_short : parseFrame (frameOne.take 8) = .shortRead 8#8 := by decide +kernel
theorem test_parse_excess : parseFrame (frameOne ++ [0x00#8]) = .values 700#16 32768#16 32768#16 := by decide +kernel

/-! ### The numeric decoder: 95_test_vectors 2.4 -/

theorem test_images_f1 :
    toFloat (decCo2 700#16) = 0x442F0000#32 ∧ toFloat (decT 32768#16) = 0x422A015E#32 ∧ decRh 32768#16 = 50#8 := by
  decide +kernel
theorem test_images_near_zero :
    toFloat (decT 16851#16) = 0xBB160096#32 ∧ toFloat (decT 16852#16) = 0x39C800C8#32 := by decide +kernel
theorem test_rh_thresholds :
    decRh 655#16 = 0#8 ∧ decRh 656#16 = 1#8 ∧ decRh 32767#16 = 49#8 ∧ decRh 65534#16 = 99#8 ∧ decRh 65535#16 = 100#8 := by
  decide +kernel

/-! ### The instructions, one step each: 95_test_vectors 2.5 -/

/-- O2: the wait is made although the send failed. -/
theorem test_initialize_o2 :
    shown (step (idleAt [.operation 0b00#2] [.err] [])) =
      [.tx 0x62#7 [0x3F#8, 0x86#8] .err, .wait 500#14, .resp (.initDone true)] := by decide +kernel
/-- O5: four bytes. -/
theorem test_self_test_o5 :
    shown (step (idleAt [.operation 0b01#2] [.ok] [[0x00#8, 0x00#8, 0x81#8, 0x00#8]])) =
      [.tx 0x62#7 [0x36#8, 0x39#8] .ok, .wait 10000#14, .rx 0x62#7 3 [0x00#8, 0x00#8, 0x81#8, 0x00#8],
        .resp (.selfTestUnexpectedLength 4#8 false)] := by decide +kernel
/-- O6: success with a reported send failure. -/
theorem test_self_test_o6 :
    shown (step (idleAt [.operation 0b01#2] [.err] [[0xAA#8, 0xBB#8, 0xCC#8]])) =
      [.tx 0x62#7 [0x36#8, 0x39#8] .err, .wait 10000#14, .rx 0x62#7 3 [0xAA#8, 0xBB#8, 0xCC#8],
        .resp (.selfTestOk true)] := by decide +kernel
/-- O8, with the second send failing: a good frame is still delivered. -/
theorem test_read_measurement_o8 :
    shown (step (idleAt [.operation 0b10#2] [.ok, .err] [frameOne])) =
      [.tx 0x62#7 [0x21#8, 0x9D#8] .ok, .wait 5000#14, .tx 0x62#7 [0xEC#8, 0x05#8] .err, .wait 1#14,
        .rx 0x62#7 9 frameOne, .resp (.measOk 700 (557065 / 13107) 50#8 0b10#2)] := by decide +kernel
/-- O13: both sends fail and nothing comes back; all five calls are still made. -/
theorem test_read_measurement_o13 :
    shown (step (idleAt [.operation 0b10#2] [.err, .err] [[]])) =
      [.tx 0x62#7 [0x21#8, 0x9D#8] .err, .wait 5000#14, .tx 0x62#7 [0xEC#8, 0x05#8] .err, .wait 1#14,
        .rx 0x62#7 9 [], .resp (.measShortRead 0#8 0b11#2)] := by decide +kernel
/-- R111: step M0. -/
theorem test_measure_single_shot :
    control (exec .cmdMeasureSingleShot (busyAt .m0 [.err] [])) = some (.busy, .m1, 1, 0b01#2) := by decide +kernel
/-- R109: step M2 records the second send. -/
theorem test_read_measurement_command :
    control (exec .cmdReadMeasurement (busyAt .m2 [.err] [])) = some (.busy, .m3, 2, 0b10#2) := by decide +kernel
/-- R110: step I0 produces `TX(A,[0x3F,0x86])`. -/
theorem test_stop_periodic_measuring :
    shown (exec .cmdStopPeriodicMeasuring (busyAt .i0 [.ok] [])) = [.tx 0x62#7 [0x3F#8, 0x86#8] .ok] := by
  decide +kernel
/-- R112: step S0 produces `TX(A,[0x36,0x39])`. -/
theorem test_perform_self_test :
    shown (exec .cmdPerformSelfTest (busyAt .s0 [.ok] [])) = [.tx 0x62#7 [0x36#8, 0x39#8] .ok] := by decide +kernel
/-- P6: the host has no means to send GET_STATUS. -/
theorem test_get_status_attempt :
    step (idleAt [.command 0xE488#16] [] []) = .refused .commandNotIssued := by rfl
theorem test_start_periodic_attempt :
    step (idleAt [.command 0x21B1#16] [] []) = .refused .commandNotIssued := by rfl
/-- O14: the reserved code. -/
theorem test_reserved_code : step (idleAt [.operation 0b11#2] [] []) = .refused .reservedOperation := by rfl
/-- P6: a second operation presented in step M1 is held off. -/
theorem test_request_held_off :
    shown (step { busyAt .m1 [] [] with requests := [.operation 0b01#2] }) = [.wait 5000#14] := by decide +kernel
/-- Every row of the opcode table runs as the first instruction after reset, but for the two no operation issues. -/
theorem test_rows_run_from_reset :
    isNext (step (State.reset.withFetchWord 8 0b00)) = true ∧ isNext (step (State.reset.withFetchWord 8 0b01)) = true ∧
      isNext (step (State.reset.withFetchWord 8 0b10)) = true ∧
      isNext (step (State.reset.withFetchWord 16 0xEC05)) = true ∧
      isNext (step (State.reset.withFetchWord 16 0x3F86)) = true ∧
      isNext (step (State.reset.withFetchWord 16 0x219D)) = true ∧
      isNext (step (State.reset.withFetchWord 16 0x3639)) = true := by decide +kernel

/-! ### Witnesses: states and operands that meet the hypotheses of the statements -/

/-- Crc8DetectsEverySingleBitFlip, FrameFillWritesReceivedBytesOnly (both clauses, at the last byte). -/
theorem witness_bit_and_byte_index :
    (7 : Nat) < 8 ∧ (8 : Nat) < 9 ∧ 8 < frameOne.length ∧ (frameOne.take 8).length ≤ 8 := by decide
/-- Crc8TwoBitFlipsAndResidue. -/
theorem witness_two_bits : (14 : Nat) < 15 ∧ 15 < 16 := by decide
/-- DecodeInvertsEncode and DecodeAcceptsOnlyEncodings. -/
theorem witness_decode : Instr.wf .opSelfTest = true ∧ decode .op [0x01#8, 0xAA#8] = .instr .opSelfTest [0xAA#8] := by
  decide
/-- ReservedCodeAndUnlistedWordsRejected. -/
theorem witness_unlisted_word : ∀ c : Command, 0x0000#16 ≠ commandValue c := by intro c; cases c <;> decide
/-- LengthGateComesFirst at 8 and 9, ExcessBytesAreIgnored. -/
theorem witness_lengths : (frameOne.take 8).length < 9 ∧ 9 ≤ frameOne.length := by decide
/-- ValidationIsAllOrNothing, both clauses. -/
theorem witness_validation :
    (crc8 0x02#8 0xBC#8 = 0x9A#8 ∧ crc8 0x80#8 0x00#8 = 0xA2#8 ∧ crc8 0x80#8 0x00#8 = 0xA2#8) ∧
      ¬(crc8 0x00#8 0x00#8 = 0x00#8 ∧ crc8 0x00#8 0x00#8 = 0x00#8 ∧ crc8 0x00#8 0x00#8 = 0x00#8) := by decide +kernel
/-- SelfTestLooksOnlyAtTheCount, both clauses. -/
theorem witness_self_test_lengths :
    [0x00#8, 0x00#8, 0x81#8].length = 3 ∧ [0x00#8, 0x00#8, 0x81#8].length ≤ 255 ∧
      (List.replicate 255 0#8).length ≠ 3 ∧ (List.replicate 255 0#8).length ≤ 255 := by decide +kernel
/-- HumidityIsTheFloor at the top of its ranges. -/
theorem witness_humidity_bound : (100 : Nat) ≤ 100 ∧ (5 : Nat) ≤ 5 := by decide
/-- TemperatureImageIsRoundedOnce: a rational in range that lies halfway between two finite values, and a finite image
other than that of a temperature. -/
theorem witness_rounding :
    |(16777217 : Rat)| ≤ binary32Max ∧ binary32Finite 0x4B800001#32 ∧
      |binary32Value (toFloat 16777217) - 16777217| = |binary32Value 0x4B800001#32 - 16777217| ∧
      binary32Value 0x4B800001#32 ≠ binary32Value (toFloat 16777217) ∧ (0x4B800001#32) ≠ toFloat (decT 0#16) := by
  have h1 : toFloat 16777217 = 0x4B800000#32 := by decide +kernel
  have h2 : binary32Value 0x4B800000#32 = 16777216 := by decide +kernel
  have h3 : binary32Value 0x4B800001#32 = 16777218 := by decide +kernel
  have h4 : toFloat (decT 0#16) = 0xC2340000#32 := by decide +kernel
  rw [h1, h2, h3, h4]
  refine ⟨by norm_num [binary32Max], by unfold binary32Finite; decide, by norm_num, by norm_num, by decide⟩
/-- InitializeRunsItsColumn, SelfTestRunsItsColumn, ReadMeasurementRunsItsColumn, OperationIsItsStepsUntilIdle: reset
meets them, and so does a block for which exactly the calls needed return. -/
theorem witness_operations :
    State.reset.phase = .idle ∧ State.reset.callsReturn 2 = true ∧ State.reset.callsReturn 3 = true ∧
      State.reset.callsReturn 5 = true ∧
      State.callsReturn 5 { State.reset with transport := { statuses := [], answers := [], returnsLeft := some 5 } } =
        true := ⟨rfl, rfl, rfl, rfl, rfl⟩
/-- OperationsRefusedWhileBusy, OperationsIgnoreTheTransients. -/
theorem witness_busy : Instr.format .opSelfTest = .op ∧ (busyAt .m1 [] []).phase = .busy := by decide
/-- OperationNeverEndsWhenACallNeverReturns, all three clauses at the boundary. -/
theorem witness_never_returns :
    State.reset.phase = .idle ∧ (1 : Nat) < 2 ∧ (2 : Nat) < 3 ∧ (4 : Nat) < 5 := ⟨rfl, by decide, by decide, by decide⟩
/-- OperationFrame. -/
theorem witness_operation_frame : Instr.format .opInitialize = .op ∧ ∃ t, exec .opInitialize (idleAt [] [.ok] []) = .next t :=
  ⟨rfl, _, rfl⟩
/-- IssuedCommandsSendAtTheirStep, StepRunsTheSequencedCommand: each of the four clauses. -/
theorem witness_send_steps :
    (busyAt .i0 [] []).phase = .busy ∧ (busyAt .i0 [] []).callsReturn 1 = true ∧ (busyAt .i0 [] []).work.step = .i0 ∧
      (busyAt .s0 [] []).work.step = .s0 ∧ (busyAt .m0 [] []).work.step = .m0 ∧ (busyAt .m2 [] []).work.step = .m2 := by
  decide
/-- SendRecordsItsOwnTxeBit, both clauses. -/
theorem witness_send_counter : (busyAt .m0 [] []).work.n = 0 ∧ (busyAt .m2 [] []).work.n = 1 := by decide
/-- CommandsRefusedOutOfSequence: Idle, and Busy at another step. -/
theorem witness_out_of_sequence : State.reset.phase = .idle ∧ (busyAt .m1 [] []).work.step ≠ .m0 := ⟨rfl, by decide⟩
/-- CommandFrame. -/
theorem witness_command_frame :
    Instr.format .cmdReadMeasurement = .cmd16 ∧ ∃ t, exec .cmdReadMeasurement (busyAt .m2 [.ok] []) = .next t :=
  ⟨rfl, _, rfl⟩
/-- WaitAndRequestStepsFollowTheTable: each clause. -/
theorem witness_call_steps :
    (busyAt .i1 [] []).callsReturn 1 = true ∧ (busyAt .i1 [] []).work.step = .i1 ∧ (busyAt .s1 [] []).work.step = .s1 ∧
      (busyAt .m1 [] []).work.step = .m1 ∧ (busyAt .m3 [] []).work.step = .m3 ∧ (busyAt .s2 [] []).work.step = .s2 ∧
      (busyAt .m4 [] []).work.step = .m4 := by decide
/-- DecidingStepsFollowTheTable: each clause, the two of M6 by a frame of zeros and by F1. -/
theorem witness_deciding_steps :
    (busyAt .i2 [] []).work.step = .i2 ∧ (busyAt .s3 [] []).work.step = .s3 ∧ (busyAt .m5 [] []).work.step = .m5 ∧
      (busyAt .m6 [] []).work.step = .m6 ∧ (busyAt .m6 [] []).work.frame.mismatch ≠ 0#3 ∧
      (Frame.fill Work.reset.frame frameOne).mismatch = 0#3 ∧ (busyAt .m7 [] []).work.step = .m7 := by decide +kernel
/-- StepIsStuckWhenItsCallNeverReturns. -/
theorem witness_stuck :
    ∃ s : State, s.phase = .busy ∧ s.transport.returnsLeft = some 0 ∧ s.work.step = .s2 :=
  ⟨{ busyAt .s2 [] [] with transport := { statuses := [], answers := [], returnsLeft := some 0 } }, rfl, rfl, rfl⟩
/-- StepRunsThePresentedInstruction. -/
theorem witness_presented :
    (idleAt [.operation 0b01#2] [] []).requests = .operation 0b01#2 :: [] ∧
      decodeRequest (.operation 0b01#2) = .instr .opSelfTest [] ∧ Instr.wf .opSelfTest = true := by decide
/-- IdleBlockWaitsForTheHost, ReservedCodeAndCommandAttemptsRefused (both clauses). -/
theorem witness_idle_requests :
    State.reset.requests = [] ∧ (idleAt [.operation 0b11#2] [] []).requests = .operation 0b11#2 :: [] ∧
      (idleAt [.command 0xFFFF#16] [] []).requests = .command 0xFFFF#16 :: [] := ⟨rfl, rfl, rfl⟩
/-- BusyBlockHoldsRequestsOff. -/
theorem witness_busy_step : (busyAt .m1 [] []).phase = .busy ∧ ∃ t, step (busyAt .m1 [] []) = .next t := ⟨rfl, _, rfl⟩
/-- BusAddressIsImmutable, TraceOnlyGrows, LawfulTraceIsKept, ProgramTraceIsConcatenation: an Idle block that runs an
operation. -/
theorem witness_idle_step :
    (idleAt [.operation 0b00#2] [.ok] []).phase = .idle ∧ (idleAt [.operation 0b00#2] [.ok] []).Lawful ∧
      (idleAt [.operation 0b00#2] [.ok] []).ProgramTrace ∧ ∃ t, step (idleAt [.operation 0b00#2] [.ok] []) = .next t :=
  ⟨rfl, fun _ h => absurd h List.not_mem_nil, ⟨[], fun _ h => absurd h List.not_mem_nil, rfl⟩, _, rfl⟩
/-- SequencerConsistencyIsKept: a consistent Busy block that takes a step. -/
theorem witness_sequenced :
    (busyAt .m1 [] []).phase = .busy ∧ (busyAt .m1 [] []).Sequenced ∧ ∃ t, step (busyAt .m1 [] []) = .next t := by
  refine ⟨rfl, fun _ => ⟨rfl, rfl, fun _ _ => BitVec.getLsbD_zero, ?_, ?_, ?_, ?_⟩, _, rfl⟩ <;>
    exact fun h => SeqStep.noConfusion h

/-- A consistent block at M7 behind a request that brought F1. -/
def deliveringF1 : State :=
  { busyAt .m7 [] [] with
    work := { Work.reset with
      step := .m7, op := 0b10#2, n := 2, k := 9#8, frame := Frame.fill Work.reset.frame frameOne }
    trace := [.rx 0x62#7 9 frameOne] }

/-- DeliveredMeasurementWasValidated. -/
theorem witness_delivered :
    deliveringF1.Sequenced ∧ deliveringF1.phase = .busy ∧ ∃ t c T h x, step deliveringF1 = .next t ∧
      t.trace = deliveringF1.trace ++ [.resp (.measOk c T h x)] := by
  refine ⟨fun _ => ⟨rfl, rfl, fun _ _ => BitVec.getLsbD_zero, ?_, ?_, ?_, fun _ => ⟨⟨frameOne, ⟨rfl, ?_, rfl⟩, ?_, rfl⟩, ?_⟩⟩,
    rfl, _, _, _, _, _, rfl, rfl⟩
  · exact fun h => SeqStep.noConfusion h
  · exact fun h => SeqStep.noConfusion h
  · exact fun h => SeqStep.noConfusion h
  · decide
  · decide
  · decide +kernel

end Sys2Proof.Tests
end

section
/-! What a step adds to the observable trace (R13): a step of the sequencer at most one event, the steps after the last
transport call at most the one response, a whole operation one event for each of its calls and its response. -/

namespace Sys2Proof.Machine

/-- The trace of `t` is the trace of `s` with at most `n` events added at its end (R13). -/
def State.AddsAtMost (n : Nat) (s t : State) : Prop := ∃ l, l.length ≤ n ∧ t.trace = s.trace ++ l

theorem State.AddsAtMost.of_trace_eq {n : Nat} {s t : State} (h : t.trace = s.trace) : s.AddsAtMost n t :=
  ⟨[], by simp, by simp [h]⟩

theorem State.AddsAtMost.of_event {s t : State} {e : Event} (h : t.trace = s.trace ++ [e]) : s.AddsAtMost 1 t :=
  ⟨[e], by simp, h⟩

theorem State.AddsAtMost.mono {m n : Nat} {s t : State} (h : s.AddsAtMost m t) (hmn : m ≤ n) : s.AddsAtMost n t := by
  obtain ⟨l, hl, ht⟩ := h
  exact ⟨l, by omega, ht⟩

theorem State.AddsAtMost.trans {m n : Nat} {s t u : State} (h₁ : s.AddsAtMost m t) (h₂ : t.AddsAtMost n u) :
    s.AddsAtMost (m + n) u := by
  obtain ⟨l₁, hl₁, ht⟩ := h₁
  obtain ⟨l₂, hl₂, hu⟩ := h₂
  refine ⟨l₁ ++ l₂, ?_, ?_⟩
  · simp only [List.length_append]; omega
  · rw [hu, ht, List.append_assoc]

/-! ### Steps without a transport call -/

@[simp] theorem State.checkFields_trace (s : State) : s.checkFields.trace = s.trace := by
  rw [s.checkFields_eq]

/-- A step without a transport call ends the operation with one response, or shows nothing. -/
theorem State.localStep_trace (s : State) :
    (s.localStep.phase = .idle ∧ ∃ r, s.localStep.trace = s.trace ++ [.resp r]) ∨ s.localStep.trace = s.trace := by
  by_cases hs : s.work.step ∈ [.i2, .s3, .m5, .m6, .m7]
  · obtain ⟨-, h⟩ | ⟨-, -, h⟩ | ⟨-, -, h⟩ | ⟨-, -, h⟩ | ⟨-, -, h⟩ | ⟨-, -, h⟩ | ⟨-, -, h⟩ | ⟨-, h⟩ :=
      s.localStep_cases hs <;> rw [h]
    · exact .inl ⟨rfl, _, State.respond_trace ..⟩
    · exact .inl ⟨rfl, _, State.respond_trace ..⟩
    · exact .inl ⟨rfl, _, State.raise_trace ..⟩
    · exact .inl ⟨rfl, _, State.raise_trace ..⟩
    · exact .inr (State.goto_trace ..)
    · exact .inr (by simp)
    · exact .inl ⟨rfl, s.checkFields.failure (.checksumMismatch s.work.frame.mismatch), by simp⟩
    · exact .inl ⟨rfl, _, State.respond_trace ..⟩
  · right
    unfold State.localStep
    split <;> simp_all

theorem State.localStep_addsAtMost (s : State) : s.AddsAtMost 1 s.localStep := by
  obtain ⟨-, r, h⟩ | h := s.localStep_trace
  · exact .of_event h
  · exact .of_trace_eq h

/-- However many steps are allowed, at most one response is returned: it makes the block Idle (R159). -/
theorem State.settle_addsAtMost (c : Nat) (s : State) : s.AddsAtMost 1 (s.settle c) := by
  induction c generalizing s with
  | zero => exact .of_trace_eq rfl
  | succ c ih =>
    cases hp : s.phase with
    | idle => exact .of_trace_eq (by simp [State.settle, hp])
    | busy =>
      have hset : s.settle (c + 1) = s.localStep.settle c := by simp [State.settle, hp]
      rw [hset]
      obtain ⟨hidle, r, hr⟩ | hr := s.localStep_trace
      · have hstop : s.localStep.settle c = s.localStep := by cases c <;> simp [State.settle, hidle]
        rw [hstop]
        exact .of_event hr
      · obtain ⟨l, hl, ht⟩ := ih s.localStep
        exact ⟨l, hl, by rw [ht, hr]⟩

/-! ### The sequencer and the operations -/

theorem seqStep_addsAtMost {s t : State} (h : seqStep s = .next t) : s.AddsAtMost 1 t := by
  obtain ⟨c, p, q, -, -, -, rfl⟩ | ⟨ms, p, q, -, -, rfl⟩ | ⟨-, rfl⟩ | ⟨-, rfl⟩ | ⟨-, rfl⟩ := seqStep_cases h
  · exact .of_event (e := .tx s.busAddress (encodeCommand c) s.nextStatus) (by simp)
  · exact .of_event (e := .wait ms) (by simp)
  · exact .of_event (e := .rx s.busAddress 3 s.nextBytes) (by simp)
  · exact .of_event (e := .rx s.busAddress 9 s.nextBytes) (by simp)
  · exact s.localStep_addsAtMost

theorem seqRun_addsAtMost {c : Nat} {s t : State} (h : seqRun c s = .next t) : s.AddsAtMost c t := by
  induction c generalizing s with
  | zero => cases h; exact .of_trace_eq rfl
  | succ c ih =>
    obtain ⟨u, hu, ht⟩ := andThen_next.1 h
    exact ((seqStep_addsAtMost hu).trans (ih ht)).mono (by omega)

/-- One event for each transport call, and the response (R151 to R153). -/
theorem runOperation_addsAtMost {code : BitVec 2} {p : SeqStep} {calls locals : Nat} {s t : State}
    (h : runOperation code p calls locals s = .next t) : s.AddsAtMost (calls + 1) t := by
  unfold runOperation at h
  split at h
  · cases h
  · obtain ⟨u, hu, ht⟩ := andThen_next.1 h
    cases ht
    have haccept : s.AddsAtMost 0 (s.accept code p) := .of_trace_eq (State.accept_trace ..)
    exact ((haccept.trans (seqRun_addsAtMost hu)).trans (u.settle_addsAtMost locals)).mono (by omega)

theorem State.issue_addsAtMost {s t : State} {p q : SeqStep} {c : Command} (h : s.issue p c q = .next t) :
    s.AddsAtMost 1 t := by
  obtain ⟨-, -, hsend⟩ := State.issue_next.1 h
  obtain ⟨-, rfl⟩ := State.sendStep_next.1 hsend
  exact .of_event (e := .tx s.busAddress (encodeCommand c) s.nextStatus) (by simp)

/-- READ_MEASUREMENT, with its five calls and its response, shows the most. -/
theorem exec_addsAtMost {i : Instr} {s t : State} (h : exec i s = .next t) : s.AddsAtMost 6 t := by
  cases i with
  | opInitialize => exact (runOperation_addsAtMost (calls := 2) h).mono (by decide)
  | opSelfTest => exact (runOperation_addsAtMost (calls := 3) h).mono (by decide)
  | opReadMeasurement => exact runOperation_addsAtMost (calls := 5) h
  | cmdGetStatus => cases h
  | cmdStartPeriodicMeasuring => cases h
  | cmdReadMeasurement => exact (State.issue_addsAtMost h).mono (by decide)
  | cmdStopPeriodicMeasuring => exact (State.issue_addsAtMost h).mono (by decide)
  | cmdMeasureSingleShot => exact (State.issue_addsAtMost h).mono (by decide)
  | cmdPerformSelfTest => exact (State.issue_addsAtMost h).mono (by decide)

/-- Settles O53: a Busy block shows at most one event, an Idle one nothing or what the presented request's instruction
shows. -/
theorem traceOnlyGrows : Obligations.TraceOnlyGrows := by
  intro s t h
  obtain ⟨-, hseq⟩ | ⟨-, -, rfl⟩ | ⟨-, q, rest, i, bs, -, -, hexec⟩ := step_cases h
  · exact (seqStep_addsAtMost hseq).mono (by decide)
  · exact State.AddsAtMost.of_trace_eq rfl
  · obtain ⟨l, hl, ht⟩ := exec_addsAtMost hexec
    exact ⟨l, hl, ht⟩

end Sys2Proof.Machine
end

section
/-! One step of a Busy block (R25): a transport call leads to one fixed state, written out as `State.sent`,
`State.waited` or `State.requested`, where it returns, and leaves the block stuck where it does not. -/

namespace Sys2Proof.Machine

/-! ### The shared updates as whole states -/

theorem State.nextStatus_eq (s : State) : s.nextStatus = s.statusAt 0 0 := by
  simp [State.nextStatus, State.statusAt, List.head?_eq_getElem?]

theorem State.nextBytes_eq (s : State) : s.nextBytes = s.bytesAt 0 := rfl

theorem State.transmit_recordSend_goto (s : State) (bytes : List Byte) (q : SeqStep) :
    ((s.transmit bytes).recordSend s.nextStatus).goto q = s.sent bytes q := by
  simp [State.transmit, State.recordSend, State.goto, State.sent, Transport.spend, s.nextStatus_eq]

theorem State.delay_goto (s : State) (ms : Millis) (q : SeqStep) : (s.delay ms).goto q = s.waited ms q := rfl

theorem State.request_storeCount_goto (s : State) (count : Nat) (q : SeqStep) :
    ((s.request count).storeCount s.nextBytes).goto q = s.requested count s.work.frame q := by
  simp [State.request, State.storeCount, State.goto, State.requested, Transport.spend, s.nextBytes_eq, byteCount]

theorem State.request_storeFrame_goto (s : State) (count : Nat) (q : SeqStep) :
    (((s.request count).storeCount s.nextBytes).storeFrame s.nextBytes).goto q =
      s.requested count (s.work.frame.fill (s.bytesAt 0)) q := by
  simp [State.request, State.storeCount, State.storeFrame, State.goto, State.requested, Transport.spend,
    s.nextBytes_eq, byteCount]

/-- A response given where the operation stands ends it with no further call. -/
theorem State.respond_eq_ended (s : State) (r : Response) : s.respond r = s.ended 0 0 0 [.resp r] := by
  simp [State.respond, State.ended]

/-! ### The steps that make a transport call -/

/-- The step makes a transport call (R25). -/
def SeqStep.isCall (p : SeqStep) : Bool := p ∉ [.i2, .s3, .m5, .m6, .m7]

theorem SeqStep.isCall_eq_false {p : SeqStep} : p.isCall = false ↔ p ∈ [.i2, .s3, .m5, .m6, .m7] := by
  simp only [SeqStep.isCall, decide_eq_false_iff_not, not_not]

/-- The block is Busy at a step that makes a transport call. -/
def State.atCall (s : State) : Bool := s.phase == .busy && s.work.step.isCall

/-- Where the transport call of the step at hand leads when it returns: the row of R25. -/
def State.called (s : State) : State :=
  match s.work.step with
  | .i0 => s.sent [0x3F#8, 0x86#8] .i1
  | .i1 => s.waited 500#14 .i2
  | .s0 => s.sent [0x36#8, 0x39#8] .s1
  | .s1 => s.waited 10000#14 .s2
  | .s2 => s.requested 3 s.work.frame .s3
  | .m0 => s.sent [0x21#8, 0x9D#8] .m1
  | .m1 => s.waited 5000#14 .m2
  | .m2 => s.sent [0xEC#8, 0x05#8] .m3
  | .m3 => s.waited 1#14 .m4
  | .m4 => s.requested 9 (s.work.frame.fill (s.bytesAt 0)) .m5
  | .i2 | .s3 | .m5 | .m6 | .m7 => s

theorem State.sendStep_eq (s : State) (c : Command) (q : SeqStep) :
    s.sendStep c q =
      if s.callReturns then .next (s.sent (encodeCommand c) q) else .fault .transportCallNeverReturns := by
  rw [State.sendStep, s.transmit_recordSend_goto]

theorem State.waitStep_eq (s : State) (ms : Millis) (q : SeqStep) :
    s.waitStep ms q = if s.callReturns then .next (s.waited ms q) else .fault .transportCallNeverReturns := rfl

theorem State.requestSelfTest_eq (s : State) :
    s.requestSelfTest =
      if s.callReturns then .next (s.requested 3 s.work.frame .s3) else .fault .transportCallNeverReturns := by
  rw [State.requestSelfTest, s.request_storeCount_goto]; rfl

theorem State.requestFrame_eq (s : State) :
    s.requestFrame =
      if s.callReturns then .next (s.requested 9 (s.work.frame.fill (s.bytesAt 0)) .m5)
      else .fault .transportCallNeverReturns := by
  rw [State.requestFrame, s.request_storeFrame_goto]; rfl

/-- At its own step a command is sent. -/
theorem State.issue_at {s : State} {p q : SeqStep} {c : Command} (hb : s.phase = .busy) (hs : s.work.step = p) :
    s.issue p c q = s.sendStep c q := by
  simp [State.issue, State.atStep, hb, hs]

/-- A step that makes a transport call leads to its one state, or the block is stuck in it (R25, R206). -/
theorem seqStep_of_atCall {s : State} (h : s.atCall = true) :
    seqStep s = if s.callReturns then .next s.called else .fault .transportCallNeverReturns := by
  obtain ⟨hb, hc⟩ : s.phase = .busy ∧ s.work.step.isCall = true := by simpa [State.atCall] using h
  cases hs : s.work.step <;> simp only [seqStep, State.called, hs]
  case i0 => exact (State.issue_at hb hs).trans (s.sendStep_eq ..)
  case s0 => exact (State.issue_at hb hs).trans (s.sendStep_eq ..)
  case m0 => exact (State.issue_at hb hs).trans (s.sendStep_eq ..)
  case m2 => exact (State.issue_at hb hs).trans (s.sendStep_eq ..)
  case i1 | s1 | m1 | m3 => exact s.waitStep_eq ..
  case s2 => exact s.requestSelfTest_eq
  case m4 => exact s.requestFrame_eq
  all_goals simp [hs, SeqStep.isCall] at hc

theorem seqStep_of_local {s : State} (h : s.work.step ∈ [.i2, .s3, .m5, .m6, .m7]) : seqStep s = .next s.localStep := by
  cases hs : s.work.step <;> simp [seqStep, hs] at h ⊢

/-! ### The step of the machine -/

theorem step_of_busy {s : State} (hb : s.phase = .busy) : step s = seqStep s := by
  simp [step, State.fetch, hb]

theorem step_of_call {s : State} (hb : s.phase = .busy) (hr : s.callsReturn 1 = true)
    (hc : s.work.step.isCall = true) : step s = .next s.called := by
  have hcall : s.atCall = true := by simp [State.atCall, hb, hc]
  rw [step_of_busy hb, seqStep_of_atCall hcall, if_pos (State.callsReturn_succ hr).1]

theorem step_of_local {s : State} (hb : s.phase = .busy) (hs : s.work.step ∈ [.i2, .s3, .m5, .m6, .m7]) :
    step s = .next s.localStep := (step_of_busy hb).trans (seqStep_of_local hs)

/-- Settles O43: each of the six steps makes a transport call, and `State.called` reads its row. -/
theorem waitAndRequestStepsFollowTheTable : Obligations.WaitAndRequestStepsFollowTheTable := by
  intro s hb hr
  have row (p : SeqStep) (hp : p.isCall = true) (hs : s.work.step = p) : step s = .next s.called :=
    step_of_call hb hr (hs ▸ hp)
  refine ⟨fun hs => ?_, fun hs => ?_, fun hs => ?_, fun hs => ?_, fun hs => ?_, fun hs => ?_⟩ <;>
    rw [row _ rfl hs, State.called, hs]

/-- Settles O47: at a send step the row of the table is the meaning of that command. -/
theorem stepRunsTheSequencedCommand : Obligations.StepRunsTheSequencedCommand := by
  intro s hb
  rw [step_of_busy hb]
  refine ⟨fun hs => ?_, fun hs => ?_, fun hs => ?_, fun hs => ?_⟩ <;> simp only [seqStep, hs, exec]

/-! ### The steps without a transport call -/

theorem State.checkFields_respond (s : State) (r : Response) : s.checkFields.respond r = s.respond r := by
  rw [s.checkFields_eq]; rfl

theorem State.checkFields_raise (s : State) (m : BitVec 3) :
    s.checkFields.raise (.checksumMismatch m) = s.respond (.measChecksumMismatch m s.work.txe) := by
  rw [s.checkFields_eq]; rfl

theorem State.localStep_i2 {s : State} (hs : s.work.step = .i2) : s.localStep = s.respond (.initDone s.txe0) := by
  simp only [State.localStep, hs]

theorem State.localStep_s3 {s : State} (hs : s.work.step = .s3) :
    s.localStep =
      s.respond (if s.work.k = 3#8 then .selfTestOk s.txe0 else .selfTestUnexpectedLength s.work.k s.txe0) := by
  simp only [State.localStep, hs, State.checkSelfTest]
  split <;> rfl

theorem State.localStep_m5 {s : State} (hs : s.work.step = .m5) :
    s.localStep = if s.work.k.toNat < 9 then s.respond (.measShortRead s.work.k s.work.txe) else s.goto .m6 := by
  simp only [State.localStep, hs, State.gateLength, BitVec.lt_def]
  rfl

theorem State.localStep_m6_mismatch {s : State} (hs : s.work.step = .m6) (hm : s.work.frame.mismatch ≠ 0#3) :
    s.localStep = s.respond (.measChecksumMismatch s.work.frame.mismatch s.work.txe) := by
  simp only [State.localStep, hs, State.validateFrame, s.checkFields_m, if_neg hm, s.checkFields_raise]

theorem State.localStep_m6_match {s : State} (hs : s.work.step = .m6) (hm : s.work.frame.mismatch = 0#3) :
    s.localStep = s.checkFields.goto .m7 := by
  simp only [State.localStep, hs, State.validateFrame, s.checkFields_m, if_pos hm]

theorem State.localStep_m7 {s : State} (hs : s.work.step = .m7) : s.localStep = s.deliverMeasurement := by
  simp only [State.localStep, hs]

/-- Settles O44: each step's own lemma, with a response read as the end of the operation. -/
theorem decidingStepsFollowTheTable : Obligations.DecidingStepsFollowTheTable := by
  intro s hb
  have row (p : SeqStep) (hp : p ∈ [.i2, .s3, .m5, .m6, .m7]) (hs : s.work.step = p) : step s = .next s.localStep :=
    step_of_local hb (hs ▸ hp)
  refine ⟨fun hs => ?_, fun hs => ?_, fun hs => ?_, fun hs hm => ?_, fun hs hm => ?_, fun hs => ?_⟩
  · rw [row _ (by decide) hs, State.localStep_i2 hs, State.respond_eq_ended, State.txe0]
  · rw [row _ (by decide) hs, State.localStep_s3 hs, State.respond_eq_ended, State.txe0]
  · rw [row _ (by decide) hs, State.localStep_m5 hs, State.respond_eq_ended, State.goto]
  · rw [row _ (by decide) hs, State.localStep_m6_mismatch hs hm, State.respond_eq_ended]
  · refine ⟨crc8 s.work.frame.rhHi s.work.frame.rhLo, ?_⟩
    rw [row _ (by decide) hs, State.localStep_m6_match hs hm, s.checkFields_eq, hm, State.goto]
  · rw [row _ (by decide) hs, State.localStep_m7 hs, State.deliverMeasurement, State.respond_eq_ended]
    rfl

/-! ### The CRC-8 unit, the frame buffer and reset -/

/-- Settles O8: the three writes of the unit all go to the accumulator. -/
theorem crcUnitForgetsItsAccumulator : Obligations.CrcUnitForgetsItsAccumulator := by
  intro s t
  simp only [State.runCrc, State.crcConsume, State.setCrc, crc8]

/-- `F[i]` after a fill is `rx[i]` where it was received, and what it was elsewhere. -/
theorem Frame.read_fill (f : Frame) (rx : List Byte) {i : Nat} (hi : i < 9) :
    (f.fill rx).read i = rx[i]?.or (f.read i) := by
  interval_cases i <;> simp only [Frame.fill, Frame.read, Option.or_some]

/-- Settles O16: `Frame.read_fill` at an index that was received, and at one that was not. -/
theorem frameFillWritesReceivedBytesOnly : Obligations.FrameFillWritesReceivedBytesOnly := by
  intro f rx i hi
  rw [f.read_fill rx hi]
  constructor
  · intro h
    rw [List.getElem?_eq_getElem h, Option.some_or]
  · intro h
    rw [List.getElem?_eq_none h, Option.none_or]

/-- Settles O51: the three fields as `State.reset` writes them. -/
theorem resetIsIdleAndSilent : Obligations.ResetIsIdleAndSilent := ⟨rfl, rfl, rfl⟩

end Sys2Proof.Machine
end

section
/-! A whole operation as its column of R25: the transport calls one after the other, and then the steps up to the
response. Each of the three has one closed form, in which no transient of the state it starts at occurs. -/

namespace Sys2Proof.Machine

/-! ### Several transport calls in order -/

theorem State.callsReturn_add_one {s t : State} (c : Nat)
    (ht : t.transport.returnsLeft = s.transport.returnsLeft.map (· - 1)) :
    s.callsReturn (c + 1) = (s.callReturns && t.callsReturn c) := by
  unfold State.callsReturn State.callReturns
  rw [ht]
  cases s.transport.returnsLeft with
  | none => rfl
  | some r =>
    rw [Bool.eq_iff_iff]
    simp
    omega

theorem State.called_returnsLeft {s : State} (h : s.atCall = true) :
    s.called.transport.returnsLeft = s.transport.returnsLeft.map (· - 1) := by
  cases hs : s.work.step <;> simp only [State.called, hs]
  case i2 | s3 | m5 | m6 | m7 => simp [State.atCall, hs, SeqStep.isCall] at h
  all_goals rfl

/-- The next `c` steps of the sequencer all make a transport call. -/
def State.callsAhead : Nat → State → Bool
  | 0, _ => true
  | c + 1, s => s.atCall && s.called.callsAhead c

/-- `c` steps that make a transport call lead to one state, or the block is stuck in one of them (R155, R206). -/
theorem seqRun_of_callsAhead {c : Nat} {s : State} (h : s.callsAhead c = true) :
    seqRun c s = if s.callsReturn c then .next (State.called^[c] s) else .fault .transportCallNeverReturns := by
  induction c generalizing s with
  | zero =>
    have hr : s.callsReturn 0 = true := by unfold State.callsReturn; split <;> simp
    rw [if_pos hr]
    rfl
  | succ c ih =>
    obtain ⟨hcall, hrest⟩ : s.atCall = true ∧ s.called.callsAhead c = true := by
      simpa [State.callsAhead] using h
    rw [seqRun, seqStep_of_atCall hcall, State.callsReturn_add_one c (State.called_returnsLeft hcall)]
    cases s.callReturns with
    | false => rfl
    | true => simpa using ih hrest

/-- While calls are ahead, running until Idle is running the sequencer. -/
theorem runUntilIdle_add_of_callsAhead {c : Nat} (l : Nat) {s : State} (h : s.callsAhead c = true) :
    runUntilIdle (c + l) s = andThen (seqRun c s) (runUntilIdle l) := by
  induction c generalizing s with
  | zero => rw [Nat.zero_add]; rfl
  | succ c ih =>
    obtain ⟨hcall, hrest⟩ : s.atCall = true ∧ s.called.callsAhead c = true := by
      simpa [State.callsAhead] using h
    have hb : s.phase = .busy := by simp only [State.atCall, Bool.and_eq_true, beq_iff_eq] at hcall; exact hcall.1
    have hrun : runUntilIdle (c + 1 + l) s = andThen (seqStep s) (runUntilIdle (c + l)) := by
      rw [Nat.add_right_comm, runUntilIdle, hb]
    rw [hrun, seqRun, seqStep_of_atCall hcall]
    cases s.callReturns with
    | false => rfl
    | true => simpa using ih hrest

/-! ### The steps after the last transport call -/

/-- The operation has ended, or stands at a step that makes no transport call. -/
def State.pastCalls (s : State) : Prop := s.phase = .idle ∨ s.work.step.isCall = false

/-- A step without a transport call returns the response, or goes on to another such step. -/
theorem State.pastCalls_localStep {s : State} (h : s.work.step ∈ [.i2, .s3, .m5, .m6, .m7]) :
    s.localStep.pastCalls := by
  obtain ⟨-, e⟩ | ⟨-, -, e⟩ | ⟨-, -, e⟩ | ⟨-, -, e⟩ | ⟨-, -, e⟩ | ⟨-, -, e⟩ | ⟨-, -, e⟩ | ⟨-, e⟩ :=
    s.localStep_cases h <;> rw [e]
  case inr.inr.inr.inr.inl => exact .inr rfl
  case inr.inr.inr.inr.inr.inl => exact .inr rfl
  all_goals exact .inl rfl

theorem runUntilIdle_of_pastCalls {s : State} (l : Nat) (h : s.pastCalls) :
    runUntilIdle l s = .next (s.settle l) := by
  induction l generalizing s with
  | zero => rfl
  | succ l ih =>
    cases hp : s.phase with
    | idle => simp only [runUntilIdle, State.settle, hp]
    | busy =>
      have hs := SeqStep.isCall_eq_false.1 (h.resolve_left (by simp [hp]))
      simp only [runUntilIdle, State.settle, hp, seqStep_of_local hs, andThen_of_next]
      exact ih (State.pastCalls_localStep hs)

/-! ### Whole operations -/

theorem runOperation_of_idle {s : State} {code : BitVec 2} {p : SeqStep} {calls : Nat} (locals : Nat)
    (hi : s.phase = .idle) (hc : (s.accept code p).callsAhead calls = true) :
    runOperation code p calls locals s =
      if s.callsReturn calls then .next ((State.called^[calls] (s.accept code p)).settle locals)
      else .fault .transportCallNeverReturns := by
  have hr : (s.accept code p).callsReturn calls = s.callsReturn calls := rfl
  rw [runOperation, hi]
  simp only [seqRun_of_callsAhead hc, hr]
  cases s.callsReturn calls <;> rfl

theorem runOperation_eq_runUntilIdle {s : State} {code : BitVec 2} {p : SeqStep} {calls : Nat} (locals : Nat)
    (hi : s.phase = .idle) (hc : (s.accept code p).callsAhead calls = true)
    (hl : (State.called^[calls] (s.accept code p)).pastCalls) :
    runOperation code p calls locals s = runUntilIdle (calls + locals) (s.accept code p) := by
  rw [runUntilIdle_add_of_callsAhead locals hc, runOperation, hi]
  simp only [seqRun_of_callsAhead hc]
  cases (s.accept code p).callsReturn calls with
  | false => rfl
  | true => exact (runUntilIdle_of_pastCalls locals hl).symm

/-- Settles O30: the calls of each column come first and its other steps last. -/
theorem operationIsItsStepsUntilIdle : Obligations.OperationIsItsStepsUntilIdle := by
  intro s hi
  refine ⟨?_, ?_, ?_⟩
  · exact runOperation_eq_runUntilIdle (calls := 2) 1 hi rfl (.inr rfl)
  · exact runOperation_eq_runUntilIdle (calls := 3) 1 hi rfl (.inr rfl)
  · exact runOperation_eq_runUntilIdle (calls := 5) 3 hi rfl (.inr rfl)

end Sys2Proof.Machine
end

section
/-! The closed form of each host operation, and what follows from it: which transients an operation reads (none that it
has not written itself) and what it leaves unchanged. -/

namespace Sys2Proof.Machine

/-! ### What a running operation has used up -/

/-- An operation that started at `s` stands at `t`: it has used `sends` statuses and `reads` answers in `calls`
transport calls, and has shown the events `l`. Of the transients and the phase nothing is said. -/
structure State.Reached (s : State) (sends reads calls : Nat) (l : List Event) (t : State) : Prop where
  busAddress : t.busAddress = s.busAddress
  requests : t.requests = s.requests
  statuses : t.transport.statuses = s.transport.statuses.drop sends
  answers : t.transport.answers = s.transport.answers.drop reads
  returnsLeft : t.transport.returnsLeft = s.transport.returnsLeft.map (· - calls)
  trace : t.trace = s.trace ++ l
  drawn : t.drawn = s.drawn + calls

section
variable {s t : State} {sends reads calls : Nat} {l : List Event}

theorem State.reached_accept (s : State) (code : BitVec 2) (p : SeqStep) :
    s.Reached 0 0 0 [] (s.accept code p) where
  busAddress := rfl
  requests := rfl
  statuses := rfl
  answers := rfl
  returnsLeft := by simp
  trace := by simp
  drawn := rfl

theorem State.Reached.statusAt (h : s.Reached sends reads calls l t) : t.statusAt 0 0 = s.statusAt sends calls := by
  simp [State.statusAt, h.statuses, h.drawn]

theorem State.Reached.bytesAt (h : s.Reached sends 0 calls l t) : t.bytesAt 0 = s.bytesAt calls := by
  simp [State.bytesAt, h.answers, h.drawn]

/-- One call more has returned: the counter of those left goes down with it. -/
theorem State.Reached.returnsLeft_succ (h : s.Reached sends reads calls l t) :
    t.transport.returnsLeft.map (· - 1) = s.transport.returnsLeft.map (· - (calls + 1)) := by
  simp [h.returnsLeft, Function.comp_def, Nat.sub_sub]

theorem State.Reached.sent (h : s.Reached sends reads calls l t) (bytes : List Byte) (q : SeqStep) :
    s.Reached (sends + 1) reads (calls + 1) (l ++ [.tx s.busAddress bytes (s.statusAt sends calls)])
      (t.sent bytes q) where
  busAddress := h.busAddress
  requests := h.requests
  statuses := by simp [State.sent, h.statuses]
  answers := h.answers
  returnsLeft := h.returnsLeft_succ
  trace := by simp [State.sent, h.trace, h.busAddress, h.statusAt]
  drawn := by simp [State.sent, h.drawn, Nat.add_assoc]

theorem State.Reached.waited (h : s.Reached sends reads calls l t) (ms : Millis) (q : SeqStep) :
    s.Reached sends reads (calls + 1) (l ++ [.wait ms]) (t.waited ms q) where
  busAddress := h.busAddress
  requests := h.requests
  statuses := h.statuses
  answers := h.answers
  returnsLeft := h.returnsLeft_succ
  trace := by simp [State.waited, h.trace]
  drawn := by simp [State.waited, h.drawn, Nat.add_assoc]

theorem State.Reached.requested (h : s.Reached sends 0 calls l t) (count : Nat) (f : Frame) (q : SeqStep) :
    s.Reached sends 1 (calls + 1) (l ++ [.rx s.busAddress count (s.bytesAt calls)]) (t.requested count f q) where
  busAddress := h.busAddress
  requests := h.requests
  statuses := h.statuses
  answers := by simp [State.requested, h.answers]
  returnsLeft := h.returnsLeft_succ
  trace := by simp [State.requested, h.trace, h.busAddress, h.bytesAt]
  drawn := by simp [State.requested, h.drawn, Nat.add_assoc]

/-- The response ends the operation, and nothing of the transients it ran with is left. -/
theorem State.Reached.respond (h : s.Reached sends reads calls l t) (r : Response) :
    t.respond r = s.ended sends reads calls (l ++ [.resp r]) := by
  rw [State.respond, State.ended, h.drawn, h.trace, h.busAddress, h.requests, List.append_assoc, ← h.statuses,
    ← h.answers, ← h.returnsLeft]

end

/-! ### From the last transport call to the response -/

theorem State.settle_succ {s : State} (c : Nat) (hb : s.phase = .busy) : s.settle (c + 1) = s.localStep.settle c := by
  simp only [State.settle, hb]

theorem State.respond_settle (s : State) (r : Response) (c : Nat) : (s.respond r).settle c = s.respond r := by
  cases c <;> rfl

theorem setBit_zero_getLsbD (v : BitVec 2) (b : Bool) : (setBit v 0 b).getLsbD 0 = b := by
  revert v b; decide

theorem byteCount_eq_three {rx : List Byte} (h : rx.length ≤ 255) : byteCount rx = 3#8 ↔ rx.length = 3 := by
  rw [← byteCount_toNat h, ← BitVec.toNat_inj]
  rfl

theorem State.bytesAt_length (s : State) (calls : Nat) : (s.bytesAt calls).length ≤ 255 := by
  simp [State.bytesAt]

theorem State.localStep_i2_response {s : State} (hs : s.work.step = .i2) {e : TxStatus}
    (hx : s.work.txe = txeOne e) : s.localStep = s.respond (.initDone e.isErr) := by
  rw [State.localStep_i2 hs, State.txe0, hx, txeOne, setBit_zero_getLsbD]

theorem State.localStep_s3_response {s : State} (hs : s.work.step = .s3) {e : TxStatus} {rx : List Byte}
    (hx : s.work.txe = txeOne e) (hk : s.work.k = byteCount rx) (hlen : rx.length ≤ 255) :
    s.localStep = s.respond (selfTestResponse rx e.isErr) := by
  rw [State.localStep_s3 hs, State.txe0, hx, txeOne, setBit_zero_getLsbD, hk, selfTestResponse]
  simp only [byteCount_eq_three hlen]

theorem parseFrame_short {rx : List Byte} (h : rx.length < 9) : parseFrame rx = .shortRead (byteCount rx) := by
  unfold parseFrame
  split
  · simp at h
    omega
  · rfl

/-- Nine received bytes leave nothing of what the frame buffer held (R28). -/
theorem parseFrame_long {rx : List Byte} (f : Frame) (h : 9 ≤ rx.length) : parseFrame rx = (f.fill rx).parse := by
  obtain ⟨b0, b1, b2, b3, b4, b5, b6, b7, b8, rest, rfl⟩ := nine_bytes rx h
  rfl

/-- From M5 behind a request that brought `rx`, the gate, the validation and the decoding respond as R153 says. -/
theorem State.settle_m5_response {s : State} {rx : List Byte} (hb : s.phase = .busy) (hs : s.work.step = .m5)
    (hk : s.work.k = byteCount rx) (hlen : rx.length ≤ 255) (hf : s.work.frame.fill rx = s.work.frame) :
    s.settle 3 = s.respond (measureResponse rx s.work.txe) := by
  have hm5 : s.localStep = if rx.length < 9 then s.respond (.measShortRead (byteCount rx) s.work.txe)
      else s.goto .m6 := by rw [State.localStep_m5 hs, hk, byteCount_toNat hlen]
  rw [State.settle_succ 2 hb, hm5]
  by_cases h9 : rx.length < 9
  · rw [if_pos h9, State.respond_settle, measureResponse, parseFrame_short h9]
  have hparse : parseFrame rx = s.work.frame.parse := by rw [parseFrame_long s.work.frame (by omega), hf]
  have hbusy : (s.goto .m6).phase = .busy := hb
  have hm6 : (s.goto .m6).work.step = .m6 := rfl
  rw [if_neg h9, State.settle_succ 1 hbusy, measureResponse, hparse, Frame.parse]
  by_cases hm : s.work.frame.mismatch = 0#3
  · rw [State.localStep_m6_match hm6 hm, State.checkFields_eq, State.settle_succ 0 (by exact hb), State.localStep_m7 rfl,
      if_pos hm]
    rfl
  · rw [State.localStep_m6_mismatch hm6 hm, State.respond_settle, if_neg hm]
    rfl

/-! ### The closed forms -/

/-- INITIALIZE (R151). -/
theorem execOpInitialize_of_idle {s : State} (hi : s.phase = .idle) :
    execOpInitialize s =
      if s.callsReturn 2 then .next (s.ended 1 0 2 (initTrace s.busAddress (s.statusAt 0 0)))
      else .fault .transportCallNeverReturns := by
  have hend : (State.called^[2] (s.accept 0b00#2 .i0)).settle 1 =
      s.ended 1 0 2 (initTrace s.busAddress (s.statusAt 0 0)) := by
    have reached := ((s.reached_accept 0b00#2 .i0).sent [0x3F#8, 0x86#8] .i1).waited 500#14 .i2
    exact (State.localStep_i2_response rfl rfl).trans (reached.respond _)
  rw [execOpInitialize, runOperation_of_idle 1 hi rfl, hend]

/-- SELF_TEST (R152). -/
theorem execOpSelfTest_of_idle {s : State} (hi : s.phase = .idle) :
    execOpSelfTest s =
      if s.callsReturn 3 then .next (s.ended 1 1 3 (selfTestTrace s.busAddress (s.statusAt 0 0) (s.bytesAt 2)))
      else .fault .transportCallNeverReturns := by
  have hend : (State.called^[3] (s.accept 0b01#2 .s0)).settle 1 =
      s.ended 1 1 3 (selfTestTrace s.busAddress (s.statusAt 0 0) (s.bytesAt 2)) := by
    have reached := (((s.reached_accept 0b01#2 .s0).sent [0x36#8, 0x39#8] .s1).waited 10000#14 .s2).requested 3
      s.work.frame .s3
    exact (State.localStep_s3_response rfl rfl rfl (s.bytesAt_length 2)).trans (reached.respond _)
  rw [execOpSelfTest, runOperation_of_idle 1 hi rfl, hend]

/-- READ_MEASUREMENT (R153). -/
theorem execOpReadMeasurement_of_idle {s : State} (hi : s.phase = .idle) :
    execOpReadMeasurement s =
      if s.callsReturn 5 then
        .next (s.ended 2 1 5 (measureTrace s.busAddress (s.statusAt 0 0) (s.statusAt 1 2) (s.bytesAt 4)))
      else .fault .transportCallNeverReturns := by
  have hend : (State.called^[5] (s.accept 0b10#2 .m0)).settle 3 =
      s.ended 2 1 5 (measureTrace s.busAddress (s.statusAt 0 0) (s.statusAt 1 2) (s.bytesAt 4)) := by
    have reached2 := ((s.reached_accept 0b10#2 .m0).sent [0x21#8, 0x9D#8] .m1).waited 5000#14 .m2
    have reached := ((reached2.sent [0xEC#8, 0x05#8] .m3).waited 1#14 .m4).requested 9
      (s.work.frame.fill (s.bytesAt 4)) .m5
    have htxe : (State.called^[5] (s.accept 0b10#2 .m0)).work.txe = txeTwo (s.statusAt 0 0) (s.statusAt 1 2) := by
      rw [← reached2.statusAt]
      rfl
    rw [State.settle_m5_response rfl rfl rfl (s.bytesAt_length 4) (Frame.fill_fill ..), htxe]
    exact reached.respond _
  rw [execOpReadMeasurement, runOperation_of_idle 3 hi rfl, hend]

theorem runOperation_of_busy {s : State} (code : BitVec 2) (p : SeqStep) (calls locals : Nat) (hb : s.phase = .busy) :
    runOperation code p calls locals s = .refused .requestWhileBusy := by
  rw [runOperation, hb]

theorem op_format_cases {i : Instr} (hf : i.format = .op) :
    i = .opInitialize ∨ i = .opSelfTest ∨ i = .opReadMeasurement := by
  cases i <;> simp [Instr.format] at hf ⊢

theorem State.idle_or_busy (s : State) : s.phase = .idle ∨ s.phase = .busy := by
  cases s.phase <;> simp

/-- A host operation is refused while Busy (R161, R207). -/
theorem exec_op_of_busy {i : Instr} {s : State} (hf : i.format = .op) (hb : s.phase = .busy) :
    exec i s = .refused .requestWhileBusy := by
  obtain rfl | rfl | rfl := op_format_cases hf <;> exact runOperation_of_busy _ _ _ _ hb

/-- Everything a host operation can do when it answers a next state: it ran at an Idle block, and ended in one of the
three closed forms. -/
theorem exec_op_cases {i : Instr} {s t : State} (hf : i.format = .op) (h : exec i s = .next t) :
    s.phase = .idle ∧
      (t = s.ended 1 0 2 (initTrace s.busAddress (s.statusAt 0 0)) ∨
        t = s.ended 1 1 3 (selfTestTrace s.busAddress (s.statusAt 0 0) (s.bytesAt 2)) ∨
        t = s.ended 2 1 5 (measureTrace s.busAddress (s.statusAt 0 0) (s.statusAt 1 2) (s.bytesAt 4))) := by
  obtain hi | hb := s.idle_or_busy
  · refine ⟨hi, ?_⟩
    obtain rfl | rfl | rfl := op_format_cases hf
    · rw [exec, execOpInitialize_of_idle hi] at h
      split at h <;> cases h
      exact .inl rfl
    · rw [exec, execOpSelfTest_of_idle hi] at h
      split at h <;> cases h
      exact .inr (.inl rfl)
    · rw [exec, execOpReadMeasurement_of_idle hi] at h
      split at h <;> cases h
      exact .inr (.inr rfl)
  · rw [exec_op_of_busy hf hb] at h
    cases h

/-! ### What an operation does not depend on, and what it leaves unchanged -/

/-- Settles O34: in a closed form no transient of the state occurs, and a refusal or a stuck block does not look at
one. -/
theorem operationsIgnoreTheTransients : Obligations.OperationsIgnoreTheTransients := by
  intro i s w hf
  obtain hi | hb := s.idle_or_busy
  · have hiw : { s with work := w }.phase = .idle := hi
    obtain rfl | rfl | rfl := op_format_cases hf
    · rw [exec, exec, execOpInitialize_of_idle hi, execOpInitialize_of_idle hiw]; rfl
    · rw [exec, exec, execOpSelfTest_of_idle hi, execOpSelfTest_of_idle hiw]; rfl
    · rw [exec, exec, execOpReadMeasurement_of_idle hi, execOpReadMeasurement_of_idle hiw]; rfl
  · rw [exec_op_of_busy hf hb, exec_op_of_busy (s := { s with work := w }) hf hb]

/-- What the end of an operation leaves of the state it started at (R21, R159). -/
theorem State.ended_frame (s : State) {sends reads : Nat} (calls : Nat) {l : List Event} (hs : sends ≤ 2)
    (hr : reads ≤ 1) (hl : OperationTrace s.busAddress l) :
    (s.ended sends reads calls l).phase = .idle ∧ (s.ended sends reads calls l).busAddress = s.busAddress ∧
      (s.ended sends reads calls l).requests = s.requests ∧
      (∃ l', OperationTrace s.busAddress l' ∧ (s.ended sends reads calls l).trace = s.trace ++ l') ∧
      (∃ j, j ≤ 2 ∧ (s.ended sends reads calls l).transport.statuses = s.transport.statuses.drop j) ∧
      (∃ j, j ≤ 1 ∧ (s.ended sends reads calls l).transport.answers = s.transport.answers.drop j) :=
  ⟨rfl, rfl, rfl, ⟨l, hl, rfl⟩, ⟨sends, hs, rfl⟩, ⟨reads, hr, rfl⟩⟩

/-- Settles O35: each closed form adds the trace of its own operation. -/
theorem operationFrame : Obligations.OperationFrame := by
  intro i s t hf h
  obtain ⟨hi, rfl | rfl | rfl⟩ := exec_op_cases hf h
  · exact ⟨hi, s.ended_frame 2 (by decide) (by decide) (.inl ⟨_, rfl⟩)⟩
  · exact ⟨hi, s.ended_frame 3 (by decide) (by decide) (.inr (.inl ⟨_, _, s.bytesAt_length 2, rfl⟩))⟩
  · exact ⟨hi, s.ended_frame 5 (by decide) (by decide) (.inr (.inr ⟨_, _, _, s.bytesAt_length 4, rfl⟩))⟩

end Sys2Proof.Machine
end

section
/-! What every step keeps: the bus address (R21), and the agreement of the transients with the sequencer step (R25 to
R29). -/

namespace Sys2Proof.Machine

/-! ### A step of an Idle block -/

/-- An Idle block executes no command word. -/
theorem exec_command_of_idle {i : Instr} {s t : State} (hf : i.format = .cmd16) (hi : s.phase = .idle) :
    exec i s ≠ .next t := by
  have notIssued (p q : SeqStep) (c : Command) : s.issue p c q ≠ .next t := fun h => by
    obtain ⟨hb, -, -⟩ := State.issue_next.1 h
    simp [hi] at hb
  cases i with
  | cmdGetStatus => exact nofun
  | cmdStartPeriodicMeasuring => exact nofun
  | cmdReadMeasurement => exact notIssued _ _ _
  | cmdStopPeriodicMeasuring => exact notIssued _ _ _
  | cmdMeasureSingleShot => exact notIssued _ _ _
  | cmdPerformSelfTest => exact notIssued _ _ _
  | opInitialize | opSelfTest | opReadMeasurement => cases hf

/-- A step of an Idle block that answers a next state does nothing, or runs one host operation with its request
taken. -/
theorem step_cases_of_idle {s t : State} (hi : s.phase = .idle) (h : step s = .next t) :
    t = s ∨ ∃ i rest, i.format = .op ∧ exec i { s with requests := rest } = .next t := by
  obtain ⟨hb, -⟩ | ⟨-, -, rfl⟩ | ⟨-, q, rest, i, bs, -, -, hexec⟩ := step_cases h
  · simp [hi] at hb
  · exact .inl rfl
  · cases hf : i.format with
    | op => exact .inr ⟨i, rest, hf, hexec⟩
    | cmd16 => exact absurd hexec (exec_command_of_idle hf hi)

theorem step_keeps_idle {s t : State} (hi : s.phase = .idle) (h : step s = .next t) : t.phase = .idle := by
  obtain rfl | ⟨i, rest, hf, hexec⟩ := step_cases_of_idle hi h
  · exact hi
  · exact (operationFrame i _ t hf hexec).2.1

/-! ### The bus address -/

theorem State.localStep_busAddress {s : State} (h : s.work.step ∈ [.i2, .s3, .m5, .m6, .m7]) :
    s.localStep.busAddress = s.busAddress := by
  obtain ⟨-, e⟩ | ⟨-, -, e⟩ | ⟨-, -, e⟩ | ⟨-, -, e⟩ | ⟨-, -, e⟩ | ⟨-, -, e⟩ | ⟨-, -, e⟩ | ⟨-, e⟩ :=
    s.localStep_cases h <;> rw [e]
  case inr.inr.inr.inr.inr.inl => rw [s.checkFields_eq]; rfl
  case inr.inr.inr.inr.inr.inr.inl => rw [s.checkFields_eq]; rfl
  all_goals rfl

theorem seqStep_busAddress {s t : State} (h : seqStep s = .next t) : t.busAddress = s.busAddress := by
  obtain ⟨_, _, _, -, -, -, rfl⟩ | ⟨_, _, _, -, -, rfl⟩ | ⟨-, rfl⟩ | ⟨-, rfl⟩ | ⟨hlocal, rfl⟩ := seqStep_cases h
  · simp
  · simp
  · simp
  · simp
  · exact State.localStep_busAddress hlocal

/-- Settles O52: no step of the sequencer writes the address, and no operation does (its frame). -/
theorem busAddressIsImmutable : Obligations.BusAddressIsImmutable := by
  intro s t h
  obtain hi | hb := s.idle_or_busy
  · obtain rfl | ⟨i, rest, hf, hexec⟩ := step_cases_of_idle hi h
    · rfl
    · obtain ⟨-, -, haddr, -⟩ := operationFrame i _ t hf hexec
      exact haddr
  · exact seqStep_busAddress ((step_of_busy hb).symm.trans h)

/-! ### The sequencer's consistency: what establishes it -/

theorem State.Sequenced.of_idle {s : State} (hi : s.phase = .idle) : s.Sequenced := fun hb => by
  simp [hi] at hb

/-- Away from the steps behind a request only the operation, the send counter and `txe` are spoken of. -/
theorem State.Sequenced.of_control {s : State} (hop : s.work.op = s.work.step.code)
    (hn : s.work.n = s.work.step.sends)
    (htxe : ∀ i : Nat, s.work.step.sends ≤ i → s.work.txe.getLsbD i = false)
    (hs : s.work.step ∉ [.s3, .m5, .m6, .m7]) : s.Sequenced := by
  simp only [List.mem_cons, List.not_mem_nil, or_false, not_or] at hs
  obtain ⟨hs3, hm5, hm6, hm7⟩ := hs
  exact fun _ => ⟨hop, hn, htxe, fun h => absurd h hs3, fun h => absurd h hm5, fun h => absurd h hm6,
    fun h => absurd h hm7⟩

theorem State.accept_sequenced (s : State) {code : BitVec 2} {p : SeqStep} (hc : code = p.code) (hp : p.sends = 0) :
    (s.accept code p).Sequenced :=
  .of_control hc hp.symm (fun _ _ => BitVec.getLsbD_zero) (by cases p <;> simp [SeqStep.sends] at hp ⊢)

/-- Settles O57: reset is Idle, and each operation is accepted at the first step of its own column. -/
theorem sequencerStartsConsistent : Obligations.SequencerStartsConsistent :=
  ⟨.of_idle rfl, fun s => ⟨s.accept_sequenced rfl rfl, s.accept_sequenced rfl rfl, s.accept_sequenced rfl rfl⟩⟩

/-! ### The sequencer's consistency: what keeps it -/

/-- Setting a bit leaves every other bit as it was. -/
theorem setBit_getLsbD_of_ne {w : Nat} (v : BitVec w) {i j : Nat} (b : Bool) (h : j ≠ i) :
    (setBit v i b).getLsbD j = v.getLsbD j := by
  have hbit : (1#w <<< i).getLsbD j = false := by
    rw [← BitVec.twoPow_eq, BitVec.getLsbD_twoPow]
    simp [h.symm]
  have hset : (if b then 1#w <<< i else 0#w).getLsbD j = false := by
    cases b
    · exact BitVec.getLsbD_zero
    · exact hbit
  have hkeep : (v.getLsbD j && decide (j < w)) = v.getLsbD j := by
    rw [Bool.and_eq_left_iff_imp]
    exact fun hv => decide_eq_true (BitVec.lt_of_getLsbD hv)
  rw [setBit, BitVec.getLsbD_or, BitVec.getLsbD_and, BitVec.getLsbD_not, hbit, hset, Bool.not_false, Bool.and_true,
    Bool.or_false, hkeep]

/-- The send steps of R25: step, command, next step. -/
def sendRows : List (SeqStep × Command × SeqStep) :=
  [(.i0, .stopPeriodicMeasuring, .i1), (.s0, .performSelfTest, .s1), (.m0, .measureSingleShot, .m1),
    (.m2, .readMeasurement, .m3)]

/-- The wait steps of R25: step, time, next step. -/
def waitRows : List (SeqStep × Millis × SeqStep) :=
  [(.i1, 500#14, .i2), (.s1, 10000#14, .s2), (.m1, 5000#14, .m2), (.m3, 1#14, .m4)]

/-- A send stays in its column and is one send more. -/
theorem sendRows_fit : ∀ r ∈ sendRows, r.2.2.code = r.1.code ∧ r.2.2.sends = r.1.sends + 1 ∧
    r.2.2 ∉ [.s3, .m5, .m6, .m7] := by decide

/-- A wait stays in its column and is no send. -/
theorem waitRows_fit : ∀ r ∈ waitRows, r.2.2.code = r.1.code ∧ r.2.2.sends = r.1.sends ∧
    r.2.2 ∉ [.s3, .m5, .m6, .m7] := by decide

theorem State.Sequenced.send {s : State} (h : s.Sequenced) (hb : s.phase = .busy) {c : Command} {q : SeqStep}
    (hrow : (s.work.step, c, q) ∈ sendRows) :
    (((s.transmit (encodeCommand c)).recordSend s.nextStatus).goto q).Sequenced := by
  obtain ⟨hop, hn, htxe, -⟩ := h hb
  obtain ⟨hcode, hsends, hq⟩ := sendRows_fit _ hrow
  refine .of_control (hop.trans hcode.symm) ((congrArg (· + 1) hn).trans hsends.symm) (fun i hi => ?_) hq
  have hi' : s.work.step.sends + 1 ≤ i := hsends ▸ hi
  have hne : i ≠ s.work.n := by omega
  exact (setBit_getLsbD_of_ne s.work.txe _ hne).trans (htxe i (by omega))

theorem State.Sequenced.wait {s : State} (h : s.Sequenced) (hb : s.phase = .busy) {ms : Millis} {q : SeqStep}
    (hrow : (s.work.step, ms, q) ∈ waitRows) : ((s.delay ms).goto q).Sequenced := by
  obtain ⟨hop, hn, htxe, -⟩ := h hb
  obtain ⟨hcode, hsends, hq⟩ := waitRows_fit _ hrow
  exact .of_control (hop.trans hcode.symm) (hn.trans hsends.symm) (fun i hi => htxe i (hsends ▸ hi)) hq

/-- Behind a request its answer is the last event, and `k` counts it (R29). -/
theorem State.received_request (s : State) (count : Nat) (q : SeqStep) :
    (((s.request count).storeCount s.nextBytes).goto q).Received count s.nextBytes :=
  ⟨by simp, s.nextBytes_length, rfl⟩

theorem State.Sequenced.selfTestRequest {s : State} (h : s.Sequenced) (hb : s.phase = .busy)
    (hs : s.work.step = .s2) : (((s.request 3).storeCount s.nextBytes).goto .s3).Sequenced := by
  obtain ⟨hop, hn, htxe, -⟩ := h hb
  rw [hs] at hop hn htxe
  exact fun _ => ⟨hop, hn, htxe, fun _ => ⟨_, s.received_request 3 .s3⟩, nofun, nofun, nofun⟩

theorem State.Sequenced.frameRequest {s : State} (h : s.Sequenced) (hb : s.phase = .busy)
    (hs : s.work.step = .m4) :
    ((((s.request 9).storeCount s.nextBytes).storeFrame s.nextBytes).goto .m5).Sequenced := by
  obtain ⟨hop, hn, htxe, -⟩ := h hb
  rw [hs] at hop hn htxe
  exact fun _ => ⟨hop, hn, htxe, nofun, fun _ => ⟨_, s.received_request 9 .m5, Frame.fill_fill ..⟩, nofun, nofun⟩

/-- Through the gate of M5 come nine bytes or more (R120). -/
theorem State.Sequenced.gate {s : State} (h : s.Sequenced) (hb : s.phase = .busy) (hs : s.work.step = .m5)
    (hk : ¬ s.work.k < 9#8) : (s.goto .m6).Sequenced := by
  obtain ⟨hop, hn, htxe, -, hm5, -⟩ := h hb
  obtain ⟨rx, hrx, hfill⟩ := hm5 hs
  have hlen : 9 ≤ rx.length := by
    obtain ⟨-, h255, hkrx⟩ := hrx
    rw [hkrx, BitVec.lt_def, byteCount_toNat h255] at hk
    exact not_lt.1 hk
  rw [hs] at hop hn htxe
  exact fun _ => ⟨hop, hn, htxe, nofun, nofun, fun _ => ⟨rx, hrx, hlen, hfill⟩, nofun⟩

/-- Through the validation of M6 comes a frame without a mismatch (R125). -/
theorem State.Sequenced.validation {s : State} (h : s.Sequenced) (hb : s.phase = .busy) (hs : s.work.step = .m6)
    (hm : s.work.frame.mismatch = 0#3) : (s.checkFields.goto .m7).Sequenced := by
  obtain ⟨hop, hn, htxe, -, -, hm6, -⟩ := h hb
  have hrx := hm6 hs
  rw [hs] at hop hn htxe
  rw [s.checkFields_eq]
  exact fun _ => ⟨hop, hn, htxe, nofun, nofun, nofun, fun _ => ⟨hrx, hm⟩⟩

/-- A step without a transport call passes a gate, or makes the block Idle. -/
theorem State.Sequenced.localStep {s : State} (h : s.Sequenced) (hb : s.phase = .busy)
    (hl : s.work.step ∈ [.i2, .s3, .m5, .m6, .m7]) : s.localStep.Sequenced := by
  obtain ⟨-, e⟩ | ⟨-, -, e⟩ | ⟨-, -, e⟩ | ⟨-, -, e⟩ | ⟨hs, hk, e⟩ | ⟨hs, hm, e⟩ | ⟨-, -, e⟩ | ⟨-, e⟩ :=
    s.localStep_cases hl <;> rw [e]
  case inr.inr.inr.inr.inl => exact h.gate hb hs hk
  case inr.inr.inr.inr.inr.inl => exact h.validation hb hs hm
  all_goals exact .of_idle rfl

theorem seqStep_keeps_sequenced {s t : State} (h : s.Sequenced) (hb : s.phase = .busy) (hstep : seqStep s = .next t) :
    t.Sequenced := by
  obtain ⟨c, _, q, -, rfl, hrow, rfl⟩ | ⟨ms, _, q, rfl, hrow, rfl⟩ | ⟨hs, rfl⟩ | ⟨hs, rfl⟩ | ⟨hl, rfl⟩ :=
    seqStep_cases hstep
  · exact h.send hb hrow
  · exact h.wait hb hrow
  · exact h.selfTestRequest hb hs
  · exact h.frameRequest hb hs
  · exact h.localStep hb hl

/-- Settles O56: a Busy block goes by the row it stands at; an Idle one is Idle again, where nothing is asked. -/
theorem sequencerConsistencyIsKept : Obligations.SequencerConsistencyIsKept := by
  intro s t h hstep
  obtain hi | hb := s.idle_or_busy
  · exact .of_idle (step_keeps_idle hi hstep)
  · exact seqStep_keeps_sequenced h hb ((step_of_busy hb).symm.trans hstep)

end Sys2Proof.Machine
end

section
/-! The encodings of 30_encoding: which bytes decode to which instruction, the rejections by name, and the port image of
a response. -/

namespace Sys2Proof

/-! ### The bytes of a command word and of an operation code -/

theorem hiByte_append_loByte (w : U16) : hiByte w ++ loByte w = w :=
  BitVec.extractLsb'_append_extractLsb' (w := 8) (len := 8)

/-- Any two bytes are the two bytes of a word. -/
theorem exists_word (b0 b1 : Byte) : ∃ w : U16, b0 = hiByte w ∧ b1 = loByte w :=
  ⟨b0 ++ b1, BitVec.extractLsb'_append_eq_left.symm, BitVec.extractLsb'_append_eq_right.symm⟩

/-- A byte whose bits 7..2 are zero holds an operation code. -/
theorem exists_code {b : Byte} (h : b.extractLsb' 2 6 = 0#6) : ∃ code : BitVec 2, b = 0#6 ++ code :=
  ⟨b.extractLsb' 0 2, by rw [← h, BitVec.extractLsb'_append_extractLsb' (w := 6) (len := 2)]⟩

/-! ### The two tables -/

/-- A code selects the host operation whose row of the opcode table holds it (R71). -/
theorem decodeOperation_eq_some_iff {code : BitVec 2} {i : Instr} :
    decodeOperation code = some i ↔ i.format = .op ∧ code = BitVec.ofNat 2 (tableWord i) := by
  constructor
  · intro h
    unfold decodeOperation at h
    split_ifs at h <;> cases h <;> exact ⟨rfl, ‹_›⟩
  · rintro ⟨hf, rfl⟩
    obtain rfl | rfl | rfl := Machine.op_format_cases hf <;> rfl

/-- A word stands for the one command whose value it is (R67). -/
theorem decodeCommand_eq_some_iff {w : U16} {c : Command} : decodeCommand w = some c ↔ w = commandValue c := by
  constructor
  · intro h
    unfold decodeCommand at h
    split_ifs at h <;> cases h <;> assumption
  · rintro rfl
    cases c <;> rfl

theorem decodeCommand_eq_none {w : U16} (h : ∀ c : Command, w ≠ commandValue c) : decodeCommand w = none :=
  Option.eq_none_iff_forall_ne_some.2 fun c hc => h c (decodeCommand_eq_some_iff.1 hc)

/-! ### The encoding by format -/

theorem encode_of_op {i : Instr} (hf : i.format = .op) : encode i = [0#6 ++ BitVec.ofNat 2 (tableWord i)] := by
  obtain rfl | rfl | rfl := Machine.op_format_cases hf <;> rfl

theorem encode_instr (c : Command) : encode c.instr = encodeCommand c := by cases c <;> rfl

theorem format_instr (c : Command) : c.instr.format = .cmd16 := by cases c <;> rfl

/-- Every CMD16 row is the row of a command. -/
theorem exists_command_of_cmd16 : ∀ {i : Instr}, i.format = .cmd16 → ∃ c : Command, i = c.instr
  | .cmdGetStatus, _ => ⟨.getStatus, rfl⟩
  | .cmdStartPeriodicMeasuring, _ => ⟨.startPeriodicMeasuring, rfl⟩
  | .cmdReadMeasurement, _ => ⟨.readMeasurement, rfl⟩
  | .cmdStopPeriodicMeasuring, _ => ⟨.stopPeriodicMeasuring, rfl⟩
  | .cmdMeasureSingleShot, _ => ⟨.measureSingleShot, rfl⟩
  | .cmdPerformSelfTest, _ => ⟨.performSelfTest, rfl⟩

/-! ### The decoder by format -/

/-- The byte of an operation code: six zero bits, then the code (R71, log 19). -/
theorem decode_op_code (code : BitVec 2) (rest : List Byte) :
    decode .op ((0#6 ++ code) :: rest) =
      (decodeOperation code).elim (.reject .reservedOperation) (.instr · rest) := by
  simp only [decode, BitVec.extractLsb'_append_eq_left, BitVec.extractLsb'_append_eq_right, if_true]
  cases decodeOperation code <;> rfl

/-- The two wire bytes of a word, high byte first (R66). -/
theorem decode_cmd16_word (w : U16) (rest : List Byte) :
    decode .cmd16 (hiByte w :: loByte w :: rest) =
      (decodeCommand w).elim (.reject (.notACommand w)) (fun c => .instr c.instr rest) := by
  simp only [decode, hiByte_append_loByte]
  cases decodeCommand w <;> rfl

theorem decode_op_over_two_bits {b : Byte} (h : b.extractLsb' 2 6 ≠ 0#6) (rest : List Byte) :
    decode .op (b :: rest) = .reject .operationOverTwoBits := if_neg h

theorem decode_op_eq_instr_iff {bytes rest : List Byte} {i : Instr} :
    decode .op bytes = .instr i rest ↔
      ∃ code : BitVec 2, decodeOperation code = some i ∧ bytes = (0#6 ++ code) :: rest := by
  constructor
  · intro h
    match bytes with
    | [] => cases h
    | b :: bs =>
      by_cases hb : b.extractLsb' 2 6 = 0#6
      · obtain ⟨code, rfl⟩ := exists_code hb
        rw [decode_op_code] at h
        cases hcode : decodeOperation code with
        | none => rw [hcode] at h; cases h
        | some i' => rw [hcode] at h; cases h; exact ⟨code, hcode, rfl⟩
      · rw [decode_op_over_two_bits hb] at h
        cases h
  · rintro ⟨code, hcode, rfl⟩
    rw [decode_op_code, hcode, Option.elim_some]

theorem decode_cmd16_eq_instr_iff {bytes rest : List Byte} {i : Instr} :
    decode .cmd16 bytes = .instr i rest ↔ ∃ c : Command, i = c.instr ∧ bytes = encodeCommand c ++ rest := by
  constructor
  · intro h
    match bytes with
    | [] => cases h
    | [_] => cases h
    | b0 :: b1 :: bs =>
      obtain ⟨w, rfl, rfl⟩ := exists_word b0 b1
      rw [decode_cmd16_word] at h
      cases hc : decodeCommand w with
      | none => rw [hc] at h; cases h
      | some c =>
        rw [hc] at h; cases h
        obtain rfl := decodeCommand_eq_some_iff.1 hc
        exact ⟨c, rfl, rfl⟩
  · rintro ⟨c, rfl, rfl⟩
    exact (decode_cmd16_word _ rest).trans (by rw [decodeCommand_eq_some_iff.2 rfl, Option.elim_some])

/-- A sequence of bytes decodes to an instruction exactly when it begins with the instruction's own bytes. -/
theorem decode_eq_instr_iff {f : Format} {bytes rest : List Byte} {i : Instr} :
    decode f bytes = .instr i rest ↔ i.format = f ∧ bytes = encode i ++ rest := by
  cases f with
  | op =>
    rw [decode_op_eq_instr_iff]
    constructor
    · rintro ⟨code, hcode, rfl⟩
      obtain ⟨hf, rfl⟩ := decodeOperation_eq_some_iff.1 hcode
      exact ⟨hf, by rw [encode_of_op hf, List.singleton_append]⟩
    · rintro ⟨hf, rfl⟩
      exact ⟨_, decodeOperation_eq_some_iff.2 ⟨hf, rfl⟩, by rw [encode_of_op hf, List.singleton_append]⟩
  | cmd16 =>
    rw [decode_cmd16_eq_instr_iff]
    constructor
    · rintro ⟨c, rfl, rfl⟩
      exact ⟨format_instr c, by rw [encode_instr]⟩
    · rintro ⟨hf, rfl⟩
      obtain ⟨c, rfl⟩ := exists_command_of_cmd16 hf
      exact ⟨c, rfl, by rw [encode_instr]⟩

/-! ### The statements -/

/-- Settles O11: the left-to-right half of `decode_eq_instr_iff`. -/
theorem decodeAcceptsOnlyEncodings : Obligations.DecodeAcceptsOnlyEncodings :=
  fun _ _ _ _ h => decode_eq_instr_iff.1 h

/-- Settles O10: the right-to-left half of `decode_eq_instr_iff`; every instruction is well-formed. -/
theorem decodeInvertsEncode : Obligations.DecodeInvertsEncode :=
  fun _ _ _ => decode_eq_instr_iff.2 ⟨rfl, rfl⟩

/-- Settles O12: the reserved code selects no operation, and a word that is no command's value stands for none. -/
theorem reservedCodeAndUnlistedWordsRejected : Obligations.ReservedCodeAndUnlistedWordsRejected := by
  constructor
  · exact fun rest => decode_op_code 0b11#2 rest
  · intro w rest h
    rw [decode_cmd16_word, decodeCommand_eq_none h, Option.elim_none]

/-- Settles O13: the four words of the table are read by their rows' lemmas, and the reserved code and the byte-swapped
READ_MEASUREMENT are evaluated. -/
theorem wordsOfTheTableDecode : Obligations.WordsOfTheTableDecode := by
  obtain ⟨-, -, hInit⟩ := Laws.TableRow.opInitialize
  obtain ⟨-, -, hMeasure⟩ := Laws.TableRow.opReadMeasurement
  obtain ⟨-, -, hRead⟩ := Laws.TableRow.cmdReadMeasurement
  obtain ⟨-, -, hStop⟩ := Laws.TableRow.cmdStopPeriodicMeasuring
  exact ⟨hInit, hMeasure, by decide, hRead, hStop, by decide⟩

/-- Settles O26: the six forms of a response as `Response.port` images them. -/
theorem portDrivesInvalidFieldsToZero : Obligations.PortDrivesInvalidFieldsToZero :=
  ⟨fun _ => rfl, fun _ => rfl, fun _ _ => rfl, fun _ _ => rfl, fun _ _ => rfl, fun _ _ _ _ => rfl⟩

end Sys2Proof
end

section
/-! The CRC-8 unit (40_crc8). A shift step is linear over XOR and injective, so the checksum of a word is a constant XOR
a linear part (`crc8Linear`); that part is given by its values on the sixteen single bits, which are the basis bytes of
95_test_vectors 2.1. -/

namespace Sys2Proof.Machine

/-! ### The shift step -/

theorem crc8Bit_eq (c : Byte) : crc8Bit c = (c <<< 1) ^^^ (if c.msb then 0x31#8 else 0#8) := by
  unfold crc8Bit
  split
  · rfl
  · exact BitVec.xor_zero.symm

theorem crc8Bit_xor (a b : Byte) : crc8Bit (a ^^^ b) = crc8Bit a ^^^ crc8Bit b := by
  have hpoly (p q : Bool) : (if p ^^ q then 0x31#8 else 0#8) =
      (if p then 0x31#8 else 0#8) ^^^ (if q then 0x31#8 else 0#8) := by cases p <;> cases q <;> rfl
  rw [crc8Bit_eq, crc8Bit_eq, crc8Bit_eq, BitVec.msb_xor, BitVec.shiftLeft_xor_distrib, hpoly]
  ac_rfl

/-- The bit shifted out comes back as bit 0, since 0x31 is odd. -/
theorem crc8Bit_getLsbD_zero (c : Byte) : (crc8Bit c).getLsbD 0 = c.msb := by
  rw [crc8Bit_eq]
  cases c.msb <;> simp

/-- No two accumulators meet: bit 0 tells which bit was shifted out, and the rest is the shift. -/
theorem crc8Bit_injective : Function.Injective crc8Bit := by
  intro a b h
  have hmsb : a.msb = b.msb := by rw [← crc8Bit_getLsbD_zero a, h, crc8Bit_getLsbD_zero b]
  have hshift : a <<< 1 = b <<< 1 := by
    rwa [crc8Bit_eq, crc8Bit_eq, hmsb, BitVec.xor_left_inj] at h
  rw [BitVec.msb_eq_decide, BitVec.msb_eq_decide, decide_eq_decide] at hmsb
  bv_omega

/-! ### Several shift steps -/

theorem crc8Shift_eq_iterate (n : Nat) : crc8Shift n = crc8Bit^[n] := by
  induction n with
  | zero => rfl
  | succ n ih => funext c; rw [crc8Shift, ih, Function.iterate_succ_apply]

theorem crc8Shift_injective (n : Nat) : Function.Injective (crc8Shift n) :=
  crc8Shift_eq_iterate n ▸ crc8Bit_injective.iterate n

theorem crc8Shift_add (m n : Nat) (c : Byte) : crc8Shift m (crc8Shift n c) = crc8Shift (m + n) c := by
  simp only [crc8Shift_eq_iterate, Function.iterate_add_apply]

theorem crc8Shift_xor (n : Nat) (a b : Byte) : crc8Shift n (a ^^^ b) = crc8Shift n a ^^^ crc8Shift n b := by
  induction n generalizing a b with
  | zero => rfl
  | succ n ih => rw [crc8Shift, crc8Bit_xor, ih, crc8Shift, crc8Shift]

/-! ### The checksum in each of its bytes -/

/-- The initial value, the first byte and the second byte go through the unit apart from each other. -/
theorem crc8_eq (b0 b1 : Byte) : crc8 b0 b1 = 0x81#8 ^^^ (crc8Shift 16 b0 ^^^ crc8Shift 8 b1) := by
  have hinit : crc8Shift 16 0xFF#8 = 0x81#8 := by decide +kernel
  rw [crc8, crc8Byte, crc8Byte, crc8Shift_xor 8 _ b1, crc8Shift_add, crc8Shift_xor, hinit, BitVec.xor_assoc]

theorem crc8_zero : crc8 0x00#8 0x00#8 = 0x81#8 := by decide +kernel

theorem crc8_injective_right (b0 : Byte) : Function.Injective (fun b1 => crc8 b0 b1) := by
  intro x y h
  simp only [crc8_eq, BitVec.xor_right_inj] at h
  exact crc8Shift_injective 8 h

theorem crc8_injective_left (b1 : Byte) : Function.Injective (fun b0 => crc8 b0 b1) := by
  intro x y h
  simp only [crc8_eq, BitVec.xor_right_inj, BitVec.xor_left_inj] at h
  exact crc8Shift_injective 16 h

theorem xor_flip_ne (b : Byte) {i : Nat} (hi : i < 8) : b ^^^ (1#8 <<< i) ≠ b := by
  intro h
  have hbit := congrArg (fun c : Byte => c.getLsbD i) h
  simp [hi] at hbit

/-- Settles O4: a flip changes the byte, and the checksum is injective in each byte. -/
theorem crc8DetectsEverySingleBitFlip : Obligations.Crc8DetectsEverySingleBitFlip :=
  ⟨crc8_zero, fun b0 b1 _ hi =>
    ⟨(crc8_injective_left b1).ne (xor_flip_ne b0 hi), (crc8_injective_right b0).ne (xor_flip_ne b1 hi)⟩⟩

/-- Settles O5: an injective map of bytes to bytes is a bijection, and `crc8_eq` is linear up to its constant. -/
theorem crc8IsAffineAndBijectiveInEachByte : Obligations.Crc8IsAffineAndBijectiveInEachByte := by
  refine ⟨fun b0 => Finite.injective_iff_bijective.1 (crc8_injective_right b0),
    fun b1 => Finite.injective_iff_bijective.1 (crc8_injective_left b1), fun a0 a1 d0 d1 => ?_⟩
  have hconst (x y : Byte) : (0x81#8 ^^^ x) ^^^ (0x81#8 ^^^ y) ^^^ 0x81#8 = 0x81#8 ^^^ (x ^^^ y) :=
    calc _ = (0x81#8 ^^^ 0x81#8) ^^^ (0x81#8 ^^^ (x ^^^ y)) := by ac_rfl
      _ = _ := by rw [BitVec.xor_self, BitVec.zero_xor]
  rw [crc8_zero, crc8_eq, crc8_eq, crc8_eq, hconst, crc8Shift_xor, crc8Shift_xor]
  ac_rfl

/-! ### The linear part of the checksum, on a whole word -/

/-- What the sixteen data bits contribute to the checksum, without the constant of the initial value. -/
def crc8Linear (d : U16) : Byte := crc8Shift 16 (hiByte d) ^^^ crc8Shift 8 (loByte d)

theorem crc8_word (d : U16) : crc8 (hiByte d) (loByte d) = 0x81#8 ^^^ crc8Linear d := crc8_eq _ _

theorem crc8Linear_xor (x y : U16) : crc8Linear (x ^^^ y) = crc8Linear x ^^^ crc8Linear y := by
  simp only [crc8Linear, hiByte, loByte, BitVec.extractLsb'_xor, crc8Shift_xor]
  ac_rfl

/-- The basis byte of a data bit is the linear part of that bit alone. -/
theorem crc8Basis_eq : crc8Basis = (List.range 16).map (fun k => crc8Linear (1#16 <<< k)) := by decide +kernel

/-- Different data bits contribute different bytes. -/
theorem crc8Linear_bit_ne {i j : Nat} (hij : i < j) (hj : j < 16) :
    crc8Linear (1#16 <<< i) ≠ crc8Linear (1#16 <<< j) := by
  have hnodup : crc8Basis.Nodup := by decide
  rw [crc8Basis_eq] at hnodup
  exact fun h =>
    hij.ne (List.inj_on_of_nodup_map hnodup (List.mem_range.2 (hij.trans hj)) (List.mem_range.2 hj) h)

/-- Settles O6: two flips cancel only where their basis bytes agree; a byte consumed by an accumulator equal to it
shifts zero; and the two colliding inputs are evaluated. -/
theorem crc8TwoBitFlipsAndResidue : Obligations.Crc8TwoBitFlipsAndResidue := by
  refine ⟨fun d i j hij hj h => ?_, fun hi lo => ?_, by decide +kernel, by decide +kernel⟩
  · rw [crc8_word, crc8_word, BitVec.xor_right_inj, BitVec.xor_assoc, crc8Linear_xor, crc8Linear_xor] at h
    refine crc8Linear_bit_ne hij hj (BitVec.xor_eq_zero_iff.1 ?_)
    rwa [← BitVec.xor_right_inj (crc8Linear d), BitVec.xor_zero]
  · rw [crc8Byte, BitVec.xor_self]
    decide

/-! ### The XOR network -/

theorem bitsFrom_getLsbD (d : U16) (i : Nat) {k : Nat} (hk : k < 16) :
    ((d >>> i) <<< i).getLsbD k = (decide (i ≤ k) && d.getLsbD k) := by
  by_cases h : i ≤ k
  · simp [h, hk, Nat.not_lt.2 h, Nat.add_sub_cancel' h]
  · simp [h, Nat.lt_of_not_le h]

theorem bitAt_getLsbD (d : U16) (i : Nat) {k : Nat} (hk : k < 16) :
    (if d.getLsbD i then 1#16 <<< i else 0#16).getLsbD k = (decide (i = k) && d.getLsbD k) := by
  by_cases h : i = k
  · subst h
    cases hd : d.getLsbD i <;> simp [hk]
  · rw [← BitVec.twoPow_eq]
    cases d.getLsbD i <;> simp [h]

/-- The bits from `i` on are bit `i` and the bits from `i + 1` on. -/
theorem bitsFrom_succ (d : U16) (i : Nat) :
    (d >>> i) <<< i = (if d.getLsbD i then 1#16 <<< i else 0#16) ^^^ (d >>> (i + 1)) <<< (i + 1) := by
  apply BitVec.eq_of_getLsbD_eq
  intro k hk
  rw [BitVec.getLsbD_xor, bitsFrom_getLsbD d i hk, bitAt_getLsbD d i hk, bitsFrom_getLsbD d (i + 1) hk]
  rcases lt_trichotomy i k with h | rfl | h
  · simp [h.le, h.ne, Nat.succ_le_of_lt h]
  · simp
  · simp [h.not_ge, h.ne', h.le]

/-- The network whose basis is a linear map on the single bits computes that map. -/
theorem xorOfBits_map_range' {f : U16 → Byte} (hf : ∀ x y, f (x ^^^ y) = f x ^^^ f y) (d : U16) {i n : Nat}
    (h : i + n = 16) :
    xorOfBits d i ((List.range' i n).map (fun k => f (1#16 <<< k))) = f ((d >>> i) <<< i) := by
  have hzero : f 0#16 = 0#8 := by
    have h0 := hf 0#16 0#16
    rwa [BitVec.xor_self, BitVec.xor_self] at h0
  induction n generalizing i with
  | zero =>
    obtain rfl : i = 16 := h
    rw [BitVec.shiftLeft_eq_zero (Nat.le_refl 16), hzero]
    rfl
  | succ n ih =>
    have hbit : f (if d.getLsbD i then 1#16 <<< i else 0#16) = if d.getLsbD i then f (1#16 <<< i) else 0#8 := by
      rw [apply_ite f, hzero]
    rw [List.range'_succ, List.map_cons, xorOfBits, ih (by omega), bitsFrom_succ d i, hf, hbit]

theorem xorOfBits_crc8Basis (d : U16) : xorOfBits d 0 crc8Basis = crc8Linear d := by
  rw [crc8Basis_eq, List.range_eq_range', xorOfBits_map_range' crc8Linear_xor d rfl, BitVec.shiftLeft_zero,
    BitVec.ushiftRight_zero]

/-- Settles O7: two bytes are those of a word, on which the network computes the linear part. -/
theorem crc8EqualsItsXorNetwork : Obligations.Crc8EqualsItsXorNetwork := by
  intro b0 b1
  obtain ⟨w, rfl, rfl⟩ := exists_word b0 b1
  rw [crc8_word, crc8Affine, hiByte_append_loByte, xorOfBits_crc8Basis]

/-! ### The rules as they are written -/

/-- Settles O1: the high bit is bit 7, and the corner cases of R91 are evaluated. -/
theorem crcBitIsOneShiftStep : Obligations.CrcBitIsOneShiftStep := by
  refine ⟨fun c => ?_, by decide, by decide, by decide⟩
  rw [crc8Bit, BitVec.msb_eq_getLsbD_last]

/-- Settles O2: the eight shifts of a byte are eight iterations of the shift step; R92's values are evaluated. -/
theorem crc8IsSixteenShiftSteps : Obligations.Crc8IsSixteenShiftSteps := by
  refine ⟨fun b0 b1 => ?_, crc8_zero, by decide +kernel, by decide +kernel, by decide +kernel, by decide +kernel⟩
  rw [crc8, crc8Byte, crc8Byte, crc8Shift_eq_iterate]

theorem crcCheck_eq_true_iff {hi lo c : Byte} : crcCheck hi lo c = true ↔ crc8 hi lo = c := beq_iff_eq

/-- Settles O3: the check is an equation with one solution; R94's worked example is evaluated. -/
theorem crcCheckIsEqualityOfAllEightBits : Obligations.CrcCheckIsEqualityOfAllEightBits :=
  ⟨fun _ _ _ => crcCheck_eq_true_iff,
    fun hi lo => ⟨crc8 hi lo, crcCheck_eq_true_iff.2 rfl, fun _ h => (crcCheck_eq_true_iff.1 h).symm⟩,
    by decide +kernel, by decide +kernel⟩

end Sys2Proof.Machine
end

section
/-! The command encoder (41_command_encoder): the two bytes of each command, the record of a send, and where a command
is sent, what it changes there, and where it is refused. -/

namespace Sys2Proof

/-! ### The two bytes of a command -/

theorem hiByte_eq_ofNat (v : U16) : hiByte v = BitVec.ofNat 8 (v.toNat / 256) := by
  apply BitVec.eq_of_toNat_eq
  rw [hiByte, BitVec.extractLsb'_toNat, Nat.shiftRight_eq_div_pow, BitVec.toNat_ofNat]

theorem loByte_eq_ofNat (v : U16) : loByte v = BitVec.ofNat 8 (v.toNat % 256) := by
  apply BitVec.eq_of_toNat_eq
  rw [loByte, BitVec.extractLsb'_toNat, Nat.shiftRight_zero, BitVec.toNat_ofNat, Nat.mod_mod]

/-- Settles O9: the two bytes of any word are its quotient and its remainder by 256, and the six words of the table are
evaluated. -/
theorem encodeSendsHighByteFirst : Obligations.EncodeSendsHighByteFirst := by
  refine ⟨fun c => ?_, rfl, rfl, rfl, rfl, rfl, rfl⟩
  rw [encodeCommand, hiByte_eq_ofNat, loByte_eq_ofNat]

end Sys2Proof

namespace Sys2Proof.Machine

/-! ### The record of a send -/

theorem TxStatus.isErr_eq_decide (e : TxStatus) : e.isErr = decide (e = .err) := by cases e <;> rfl

theorem setBit_getLsbD_self {w : Nat} (v : BitVec w) {i : Nat} (b : Bool) (hi : i < w) :
    (setBit v i b).getLsbD i = b := by
  have hbit : (1#w <<< i).getLsbD i = true := by
    rw [← BitVec.twoPow_eq, BitVec.getLsbD_twoPow]
    simp [hi]
  rw [setBit, BitVec.getLsbD_or, BitVec.getLsbD_and, BitVec.getLsbD_not, hbit]
  cases b
  · simp
  · simp [hbit]

/-- The send number `k` of an operation, of which there are two, records its status in bit `k` and keeps every other
bit (R106). -/
theorem State.recordSend_bits {s : State} (e : TxStatus) {j k : Nat} (hn : s.work.n = k) (hk : k < 2) (hj : j ≠ k) :
    (s.recordSend e).work.txe.getLsbD k = decide (e = .err) ∧
      (s.recordSend e).work.txe.getLsbD j = s.work.txe.getLsbD j ∧ (s.recordSend e).work.n = k + 1 := by
  subst hn
  rw [State.recordSend_work, setBit_getLsbD_self _ _ hk, e.isErr_eq_decide, setBit_getLsbD_of_ne _ _ hj]
  exact ⟨rfl, rfl, rfl⟩

/-- Settles O39: the first send is number 0 and the second number 1. -/
theorem sendRecordsItsOwnTxeBit : Obligations.SendRecordsItsOwnTxeBit := fun _ e =>
  ⟨fun hn => State.recordSend_bits e hn (by decide) (by decide),
    fun hn => State.recordSend_bits e hn (by decide) (by decide)⟩

/-! ### Where a command is sent, and where it is refused -/

/-- At its own step a command is sent when the call returns (R106). -/
theorem State.issue_eq_sent {s : State} {p q : SeqStep} {c : Command} (hb : s.phase = .busy)
    (hr : s.callsReturn 1 = true) (hs : s.work.step = p) :
    s.issue p c q = .next (s.sent (encodeCommand c) q) := by
  rw [State.issue_at hb hs, s.sendStep_eq, if_pos (State.callsReturn_succ hr).1]

/-- Settles O38: each command at the step it is issued from, its two bytes evaluated. -/
theorem issuedCommandsSendAtTheirStep : Obligations.IssuedCommandsSendAtTheirStep := fun _ hb hr =>
  ⟨State.issue_eq_sent hb hr, State.issue_eq_sent hb hr, State.issue_eq_sent hb hr, State.issue_eq_sent hb hr⟩

theorem State.issue_refused {s : State} {p q : SeqStep} {c : Command} (h : s.phase = .idle ∨ s.work.step ≠ p) :
    s.issue p c q = .refused .commandOutOfSequence := by
  have hat : s.atStep p = false := by
    obtain hi | hs := h
    · simp [State.atStep, hi]
    · simp [State.atStep, hs]
  simp [State.issue, hat]

/-- Settles O41: each of the four is issued from one step alone. -/
theorem commandsRefusedOutOfSequence : Obligations.CommandsRefusedOutOfSequence := fun _ =>
  ⟨State.issue_refused, State.issue_refused, State.issue_refused, State.issue_refused⟩

/-- Settles O40: the meaning of both is the refusal. -/
theorem unissuedCommandsAreRefused : Obligations.UnissuedCommandsAreRefused := fun _ => ⟨rfl, rfl⟩

/-! ### What a sent command changes -/

/-- A command that is sent leads from its own step to the one state of a send. -/
theorem State.issue_cases {s t : State} {p q : SeqStep} {c : Command} (hrow : (p, c, q) ∈ sendRows)
    (h : s.issue p c q = .next t) :
    s.phase = .busy ∧ ∃ r ∈ sendRows, s.work.step = r.1 ∧ t = s.sent (encodeCommand r.2.1) r.2.2 := by
  obtain ⟨hb, hs, hsend⟩ := State.issue_next.1 h
  rw [s.sendStep_eq] at hsend
  split at hsend <;> cases hsend
  exact ⟨hb, _, hrow, hs, rfl⟩

/-- Everything a command word can do when it answers a next state: it is sent by the row of R25 the block stands at. -/
theorem exec_command_cases {i : Instr} {s t : State} (hf : i.format = .cmd16) (h : exec i s = .next t) :
    s.phase = .busy ∧ ∃ r ∈ sendRows, s.work.step = r.1 ∧ t = s.sent (encodeCommand r.2.1) r.2.2 := by
  cases i with
  | cmdGetStatus => cases h
  | cmdStartPeriodicMeasuring => cases h
  | cmdReadMeasurement => exact State.issue_cases (by decide) h
  | cmdStopPeriodicMeasuring => exact State.issue_cases (by decide) h
  | cmdMeasureSingleShot => exact State.issue_cases (by decide) h
  | cmdPerformSelfTest => exact State.issue_cases (by decide) h
  | opInitialize | opSelfTest | opReadMeasurement => cases hf

/-- The send steps put nothing on the bus but the four byte pairs of R113. -/
theorem sendRows_bytes : ∀ r ∈ sendRows, encodeCommand r.2.1 ∈ sentBytes := by decide

/-- Settles O42: `State.sent` writes one `txe` bit and the fields named, and its bytes are those of a send step. -/
theorem commandFrame : Obligations.CommandFrame := by
  intro i s t hf h
  obtain ⟨hb, r, hr, -, rfl⟩ := exec_command_cases hf h
  exact ⟨hb, hb, rfl, rfl, rfl, rfl, rfl, rfl, rfl, rfl, fun j hj => setBit_getLsbD_of_ne s.work.txe _ hj, rfl, rfl,
    rfl, rfl, _, sendRows_bytes r hr, rfl⟩

end Sys2Proof.Machine
end

section
/-! The lawful trace (R113, R42, R154, R170, R141): every event a step shows is lawful, at a Busy block by its row of
R25, at an Idle one by the trace of the operation. -/

namespace Sys2Proof.Machine

/-! ### The ranges of the decoded values -/

theorem decCo2_range (r : U16) : 0 ≤ decCo2 r ∧ decCo2 r ≤ 65535 := by
  have hr : r.toNat ≤ 65535 := Nat.le_of_lt_succ r.isLt
  unfold decCo2
  exact ⟨Nat.cast_nonneg _, by exact_mod_cast hr⟩

theorem decT_range (r : U16) : -45 ≤ decT r ∧ decT r ≤ 130 := by
  obtain ⟨hlo, hhi⟩ := decCo2_range r
  unfold decCo2 at hlo hhi
  unfold decT
  constructor <;> linarith

theorem decRh_le (r : U16) : decRh r ≤ 100#8 := by
  have hr := r.isLt
  have hle : 100 * r.toNat / 65535 ≤ 100 := by omega
  rw [decRh, BitVec.le_def, BitVec.toNat_ofNat, Nat.mod_eq_of_lt (by omega)]
  exact hle

/-! ### The responses -/

theorem measOk_lawful (c t h : U16) (x : BitVec 2) : (Response.measOk (decCo2 c) (decT t) (decRh h) x).Lawful :=
  ⟨(decCo2_range c).1, (decCo2_range c).2, (decT_range t).1, (decT_range t).2, decRh_le h⟩

theorem selfTestResponse_lawful {rx : List Byte} (hlen : rx.length ≤ 255) (b : Bool) :
    (selfTestResponse rx b).Lawful := by
  unfold selfTestResponse
  split
  case isTrue => trivial
  case isFalse h3 => exact fun hk => h3 ((byteCount_eq_three hlen).1 hk)

theorem measureResponse_lawful (rx : List Byte) (x : BitVec 2) : (measureResponse rx x).Lawful := by
  unfold measureResponse
  obtain h9 | h9 := Nat.lt_or_ge rx.length 9
  · rw [parseFrame_short h9]
    change byteCount rx < 9#8
    rw [BitVec.lt_def, byteCount_toNat (by omega)]
    exact h9
  · rw [parseFrame_long default h9, Frame.parse]
    by_cases hm : (Frame.fill default rx).mismatch = 0#3
    · rw [if_pos hm]
      exact measOk_lawful ..
    · rw [if_neg hm]
      exact hm

/-! ### What a step shows -/

/-- The trace of `t` is the trace of `s` with lawful events of its block added at its end. -/
def State.AddsLawful (s t : State) : Prop := ∃ l, (∀ e ∈ l, e.Lawful s.busAddress) ∧ t.trace = s.trace ++ l

theorem State.AddsLawful.of_trace_eq {s t : State} (h : t.trace = s.trace) : s.AddsLawful t :=
  ⟨[], by simp, by simp [h]⟩

theorem State.AddsLawful.of_event {s t : State} {e : Event} (he : e.Lawful s.busAddress)
    (h : t.trace = s.trace ++ [e]) : s.AddsLawful t :=
  ⟨[e], by simpa using he, h⟩

theorem State.addsLawful_respond {s : State} {r : Response} (hr : r.Lawful) : s.AddsLawful (s.respond r) :=
  .of_event (e := .resp r) hr (State.respond_trace ..)

/-- Each early end names what failed its gate, and the two successes are in range (R170, R141). -/
theorem State.localStep_addsLawful {s : State} (h : s.work.step ∈ [.i2, .s3, .m5, .m6, .m7]) :
    s.AddsLawful s.localStep := by
  obtain ⟨-, e⟩ | ⟨-, -, e⟩ | ⟨-, hk, e⟩ | ⟨-, hk, e⟩ | ⟨-, -, e⟩ | ⟨-, -, e⟩ | ⟨-, hm, e⟩ | ⟨-, e⟩ :=
    s.localStep_cases h <;> rw [e]
  · exact State.addsLawful_respond trivial
  · exact State.addsLawful_respond trivial
  · exact State.addsLawful_respond hk
  · exact State.addsLawful_respond hk
  · exact .of_trace_eq (State.goto_trace ..)
  · exact .of_trace_eq ((State.goto_trace ..).trans s.checkFields_trace)
  · rw [s.checkFields_raise]
    exact State.addsLawful_respond hm
  · exact State.addsLawful_respond (measOk_lawful ..)

/-- The times of the wait steps are the four of R154. -/
theorem waitRows_times : ∀ r ∈ waitRows, r.2.1 ∈ [500#14, 10000#14, 5000#14, 1#14] := by decide

theorem seqStep_addsLawful {s t : State} (h : seqStep s = .next t) : s.AddsLawful t := by
  obtain ⟨c, p, q, -, -, hrow, rfl⟩ | ⟨ms, p, q, -, hrow, rfl⟩ | ⟨-, rfl⟩ | ⟨-, rfl⟩ | ⟨hl, rfl⟩ := seqStep_cases h
  · exact .of_event (e := .tx s.busAddress (encodeCommand c) s.nextStatus) ⟨rfl, sendRows_bytes (p, c, q) hrow⟩ (by simp)
  · exact .of_event (e := .wait ms) (waitRows_times (p, ms, q) hrow) (by simp)
  · exact .of_event (e := .rx s.busAddress 3 s.nextBytes) ⟨rfl, .inr rfl, s.nextBytes_length⟩ (by simp)
  · exact .of_event (e := .rx s.busAddress 9 s.nextBytes) ⟨rfl, .inl rfl, s.nextBytes_length⟩ (by simp)
  · exact State.localStep_addsLawful hl

/-! ### What an operation shows -/

section
variable (a : BusAddr) (e e0 e1 : TxStatus) {rx : List Byte}

theorem initTrace_lawful : ∀ v ∈ initTrace a e, v.Lawful a := by
  simp [initTrace, Event.Lawful, sentBytes, Response.Lawful]

theorem selfTestTrace_lawful (hlen : rx.length ≤ 255) : ∀ v ∈ selfTestTrace a e rx, v.Lawful a := by
  simp [selfTestTrace, Event.Lawful, sentBytes, hlen, selfTestResponse_lawful hlen]

theorem measureTrace_lawful (hlen : rx.length ≤ 255) : ∀ v ∈ measureTrace a e0 e1 rx, v.Lawful a := by
  simp [measureTrace, Event.Lawful, sentBytes, hlen, measureResponse_lawful]

end

theorem OperationTrace.lawful {a : BusAddr} {l : List Event} (h : OperationTrace a l) : ∀ v ∈ l, v.Lawful a := by
  obtain ⟨e, rfl⟩ | ⟨e, rx, hlen, rfl⟩ | ⟨e0, e1, rx, hlen, rfl⟩ := h
  · exact initTrace_lawful a e
  · exact selfTestTrace_lawful a e hlen
  · exact measureTrace_lawful a e0 e1 hlen

/-! ### The statements -/

theorem step_addsLawful {s t : State} (h : step s = .next t) : s.AddsLawful t := by
  obtain hi | hb := s.idle_or_busy
  · obtain rfl | ⟨i, rest, hf, hexec⟩ := step_cases_of_idle hi h
    · exact .of_trace_eq rfl
    · obtain ⟨-, -, -, -, ⟨l, hl, ht⟩, -⟩ := operationFrame i _ t hf hexec
      exact ⟨l, hl.lawful, ht⟩
  · exact seqStep_addsLawful ((step_of_busy hb).symm.trans h)

/-- Settles O54: the events a step adds are lawful, and the address they are lawful for is never written. -/
theorem lawfulTraceIsKept : Obligations.LawfulTraceIsKept := by
  intro s t hs h
  obtain ⟨l, hl, ht⟩ := step_addsLawful h
  rw [State.Lawful, busAddressIsImmutable s t h, ht, List.forall_mem_append]
  exact ⟨hs, hl⟩

/-- Settles O55: the trace of reset is empty. -/
theorem resetTraceIsLawful : Obligations.ResetTraceIsLawful := fun _ he => absurd he List.not_mem_nil

end Sys2Proof.Machine
end

section
/-! The response frame parser (42_frame_parser): the triples of a received frame, the mask of their checksums, what the
parse of a sequence gives, and the frame behind a delivered measurement. -/

namespace Sys2Proof.Machine

/-! ### The mask of a frame -/

/-- Each bit of the mask is the negated check of its own field (R125, D4). -/
theorem Frame.mismatch_bits (f : Frame) :
    f.mismatch.getLsbD 0 = !f.co2.check ∧ f.mismatch.getLsbD 1 = !f.temperature.check ∧
      f.mismatch.getLsbD 2 = !f.humidity.check := by
  refine ⟨?_, ?_, ?_⟩ <;> rw [Frame.mismatch]
  · rw [setBit_getLsbD_of_ne _ _ (by decide), setBit_getLsbD_of_ne _ _ (by decide), setBit_getLsbD_self _ _ (by decide)]
  · rw [setBit_getLsbD_of_ne _ _ (by decide), setBit_getLsbD_self _ _ (by decide)]
  · rw [setBit_getLsbD_self _ _ (by decide)]

theorem Triple.not_check_eq_true_iff (t : Triple) : (!t.check) = true ↔ crc8 t.hi t.lo ≠ t.crc := by
  rw [Bool.not_eq_true', ← Bool.not_eq_true]
  exact not_congr crcCheck_eq_true_iff

/-- The mask names exactly the fields whose checksum byte is not the CRC8 of the value bytes (R94, R125). -/
theorem Frame.mismatch_names (f : Frame) :
    (f.mismatch.getLsbD 0 = true ↔ crc8 f.co2Hi f.co2Lo ≠ f.co2Crc) ∧
      (f.mismatch.getLsbD 1 = true ↔ crc8 f.tHi f.tLo ≠ f.tCrc) ∧
      (f.mismatch.getLsbD 2 = true ↔ crc8 f.rhHi f.rhLo ≠ f.rhCrc) := by
  obtain ⟨hc, ht, hh⟩ := f.mismatch_bits
  rw [hc, ht, hh]
  exact ⟨f.co2.not_check_eq_true_iff, f.temperature.not_check_eq_true_iff, f.humidity.not_check_eq_true_iff⟩

/-- A mask without a bit is a frame without a failing field (R124). -/
theorem Frame.mismatch_eq_zero_iff (f : Frame) :
    f.mismatch = 0#3 ↔
      crc8 f.co2Hi f.co2Lo = f.co2Crc ∧ crc8 f.tHi f.tLo = f.tCrc ∧ crc8 f.rhHi f.rhLo = f.rhCrc := by
  have no_bit (m : BitVec 3) : m = 0#3 ↔ ¬m.getLsbD 0 = true ∧ ¬m.getLsbD 1 = true ∧ ¬m.getLsbD 2 = true := by
    revert m; decide
  obtain ⟨hc, ht, hh⟩ := f.mismatch_names
  rw [no_bit, hc, ht, hh, not_not, not_not, not_not]

/-- The parse of a frame never tells of its length: it gives values or a mask (R126). -/
theorem Frame.parse_ne_shortRead (f : Frame) (k : Count) : f.parse ≠ .shortRead k := by
  unfold Frame.parse
  split
  · exact nofun
  · exact nofun

/-- A frame parses to its three raw values where all three checksums match, and to its nonzero mask elsewhere (R124,
R125). -/
theorem Frame.parse_allOrNothing (f : Frame) :
    (crc8 f.co2Hi f.co2Lo = f.co2Crc ∧ crc8 f.tHi f.tLo = f.tCrc ∧ crc8 f.rhHi f.rhLo = f.rhCrc →
      f.parse = .values f.co2.raw f.temperature.raw f.humidity.raw) ∧
    (¬(crc8 f.co2Hi f.co2Lo = f.co2Crc ∧ crc8 f.tHi f.tLo = f.tCrc ∧ crc8 f.rhHi f.rhLo = f.rhCrc) →
      f.parse = .checksumMismatch f.mismatch ∧ f.mismatch ≠ 0#3) := by
  rw [← f.mismatch_eq_zero_iff, Frame.parse]
  exact ⟨fun hm => if_pos hm, fun hm => ⟨if_neg hm, hm⟩⟩

/-! ### The parse of a sequence -/

/-- Nine received bytes take the nine places of the frame buffer in order (R28, R50). -/
theorem Frame.fill_nine (f : Frame) (b0 b1 b2 b3 b4 b5 b6 b7 b8 : Byte) (rest : List Byte) :
    f.fill (b0 :: b1 :: b2 :: b3 :: b4 :: b5 :: b6 :: b7 :: b8 :: rest) = ⟨b0, b1, b2, b3, b4, b5, b6, b7, b8⟩ := rfl

theorem raw_toNat (hi lo : Byte) : (raw hi lo).toNat = hi.toNat * 256 + lo.toNat := by
  rw [raw, BitVec.toNat_append, ← Nat.shiftLeft_add_eq_or_of_lt lo.isLt, Nat.shiftLeft_eq]

/-- A sequence of nine bytes or more is parsed as the frame of its first nine (R126, R128). -/
theorem parseFrame_nine (b0 b1 b2 b3 b4 b5 b6 b7 b8 : Byte) (rest : List Byte) :
    parseFrame (b0 :: b1 :: b2 :: b3 :: b4 :: b5 :: b6 :: b7 :: b8 :: rest) =
      Frame.parse ⟨b0, b1, b2, b3, b4, b5, b6, b7, b8⟩ := rfl

/-- Settles O18: the frame of the first nine bytes, with the fields its mask names. Bytes past the ninth are not looked
at (log 7). -/
theorem validationIsAllOrNothing : Obligations.ValidationIsAllOrNothing := by
  intro b0 b1 b2 b3 b4 b5 b6 b7 b8 rest
  rw [parseFrame_nine]
  obtain ⟨hvalues, hmask⟩ := Frame.parse_allOrNothing ⟨b0, b1, b2, b3, b4, b5, b6, b7, b8⟩
  refine ⟨hvalues, fun hfail => ?_⟩
  obtain ⟨hparse, hne⟩ := hmask hfail
  exact ⟨_, hparse, hne, Frame.mismatch_names ⟨b0, b1, b2, b3, b4, b5, b6, b7, b8⟩⟩

/-- Settles O17: below nine bytes the count is given, and from nine on the frame is parsed. -/
theorem lengthGateComesFirst : Obligations.LengthGateComesFirst := by
  refine ⟨fun _ h => parseFrame_short h, fun rx k h => ?_⟩
  rw [parseFrame_long default h]
  exact Frame.parse_ne_shortRead _ k

/-- Settles O14: R122's corner cases are the equation evaluated. -/
theorem rawIsUnsignedBigEndian : Obligations.RawIsUnsignedBigEndian :=
  ⟨raw_toNat, raw_toNat _ _, raw_toNat _ _, raw_toNat _ _, raw_toNat _ _⟩

/-- Settles O15: each triple is three places in a row of `Frame.fill_nine`. -/
theorem extractTakesFixedOffsets : Obligations.ExtractTakesFixedOffsets := by
  intro f b0 b1 b2 b3 b4 b5 b6 b7 b8 rest
  rw [f.fill_nine]
  exact ⟨rfl, rfl, rfl⟩

/-- Settles O20: the response branches on the length, and the count of at most 255 bytes does not wrap. -/
theorem selfTestLooksOnlyAtTheCount : Obligations.SelfTestLooksOnlyAtTheCount := by
  intro rx txe0 hlen
  constructor
  · intro h3
    exact if_pos h3
  · intro h3
    exact ⟨byteCount rx, if_neg h3, byteCount_toNat hlen⟩

/-! ### The frame behind a delivered measurement -/

/-- Among the steps without a transport call only M7 returns a measurement (R144). -/
theorem State.localStep_delivers {s : State} (hl : s.work.step ∈ [.i2, .s3, .m5, .m6, .m7]) {c T : Rat} {h : BitVec 8}
    {x : BitVec 2} (ht : s.localStep.trace = s.trace ++ [.resp (.measOk c T h x)]) :
    s.work.step = .m7 ∧ s.localStep = s.deliverMeasurement := by
  have only {r : Response} (hr : s.localStep = s.respond r) : r = .measOk c T h x := by
    simpa [hr] using ht
  obtain ⟨-, e⟩ | ⟨-, -, e⟩ | ⟨-, -, e⟩ | ⟨-, -, e⟩ | ⟨-, -, e⟩ | ⟨-, -, e⟩ | ⟨-, -, e⟩ | ⟨hs, e⟩ :=
    s.localStep_cases hl
  case inr.inr.inr.inr.inl => simp [e] at ht
  case inr.inr.inr.inr.inr.inl => simp [e] at ht
  case inr.inr.inr.inr.inr.inr.inl => cases only (e.trans (s.checkFields_raise _))
  case inr.inr.inr.inr.inr.inr.inr => exact ⟨hs, e⟩
  all_goals cases only e

/-- A step of the sequencer that shows a measurement is M7's: a transport call shows itself and no response. -/
theorem seqStep_delivers {s t : State} (hstep : seqStep s = .next t) {c T : Rat} {h : BitVec 8} {x : BitVec 2}
    (ht : t.trace = s.trace ++ [.resp (.measOk c T h x)]) : s.work.step = .m7 ∧ t = s.deliverMeasurement := by
  obtain ⟨_, _, _, -, -, -, rfl⟩ | ⟨_, _, _, -, -, rfl⟩ | ⟨-, rfl⟩ | ⟨-, rfl⟩ | ⟨hl, rfl⟩ := seqStep_cases hstep
  · simp at ht
  · simp at ht
  · simp at ht
  · simp at ht
  · exact State.localStep_delivers hl ht

/-- Settles O60: a measurement is delivered at M7, where a consistent sequencer has the nine bytes of the last request
in its frame buffer and no mismatch among them. -/
theorem deliveredMeasurementWasValidated : Obligations.DeliveredMeasurementWasValidated := by
  intro s t c T h x hseq hb hstep ht
  obtain ⟨hm7, rfl⟩ := seqStep_delivers ((step_of_busy hb).symm.trans hstep) ht
  cases List.append_cancel_left ht
  obtain ⟨-, -, -, -, -, -, hdelivery⟩ := hseq hb
  obtain ⟨⟨rx, ⟨hlast, -, -⟩, hlen, hfill⟩, hmatch⟩ := hdelivery hm7
  obtain ⟨b0, b1, b2, b3, b4, b5, b6, b7, b8, rest, rfl⟩ := nine_bytes rx hlen
  rw [Frame.fill_nine] at hfill
  rw [← hfill] at hmatch ⊢
  obtain ⟨hco2, htemp, hhum⟩ := (Frame.mismatch_eq_zero_iff _).1 hmatch
  exact ⟨b0, b1, b2, b3, b4, b5, b6, b7, b8, rest, hlast, hco2, htemp, hhum, rfl, rfl, rfl, rfl⟩

end Sys2Proof.Machine
end

section
/-! The decoded values (43_numeric_decoder): relative humidity as a floor (R138) and the exact temperature (R137). -/

namespace Sys2Proof.Machine

/-! ### Relative humidity -/

/-- The quotient of `DEC_RH` is at most 100, so its 8 bits hold it (R140). -/
theorem decRh_toNat (r : U16) : (decRh r).toNat = 100 * r.toNat / 65535 := by
  have hr := r.isLt
  rw [decRh, BitVec.toNat_ofNat, Nat.mod_eq_of_lt (by omega)]

theorem decRh_eq_floor (r : U16) : ((decRh r).toNat : Int) = ⌊(100 * (r.toNat : ℚ)) / 65535⌋ := by
  have hfloor := Rat.floor_natCast_div_natCast (100 * r.toNat) 65535
  push_cast at hfloor
  rw [decRh_toNat, hfloor]
  push_cast
  rfl

/-- Only the top of the range gives 100 percent (R138). -/
theorem decRh_eq_hundred_iff (r : U16) : (decRh r).toNat = 100 ↔ r = 65535#16 := by
  have hr := r.isLt
  rw [decRh_toNat, BitVec.toNat_eq, BitVec.toNat_ofNat]
  omega

/-- The least raw value that gives `n` percent (R138). -/
theorem le_decRh_iff (r : U16) (n : Nat) :
    n ≤ (decRh r).toNat ↔ ⌈(65535 * (n : ℚ)) / 100⌉ ≤ (r.toNat : Int) := by
  rw [decRh_toNat, Nat.le_div_iff_mul_le (by norm_num), Int.ceil_le, div_le_iff₀ (by norm_num), Int.cast_natCast]
  norm_cast
  rw [Nat.mul_comm n, Nat.mul_comm 100]

/-- The fractional value is `20 * raw / 13107`, and 13107 is prime to 20 (R138). -/
theorem humidity_isInt_iff (r : U16) :
    (∃ z : Int, (100 * (r.toNat : ℚ)) / 65535 = z) ↔ r.toNat % 13107 = 0 := by
  have hcross (z : Int) : (100 * (r.toNat : ℚ)) / 65535 = z ↔ 100 * (r.toNat : Int) = z * 65535 := by
    rw [div_eq_iff (by norm_num)]
    exact_mod_cast Iff.rfl
  simp only [hcross]
  constructor
  · rintro ⟨z, hz⟩
    omega
  · intro h
    exact ⟨20 * (r.toNat / 13107 : Nat), by omega⟩

/-- Settles O24: the integer quotient is the floor, and each corner case is a fact about that quotient. -/
theorem humidityIsTheFloor : Obligations.HumidityIsTheFloor := by
  refine ⟨decRh_eq_floor, fun r => ⟨decRh_le r, decRh_eq_hundred_iff r⟩, fun r n _ => le_decRh_iff r n,
    humidity_isInt_iff, fun j _ => ?_, by decide⟩
  push_cast
  ring

/-! ### The exact temperature -/

/-- The formula over one denominator in lowest terms, 13107 = 65535 / 5 (R137). -/
theorem decT_eq_div (r : U16) : decT r = ((35 * (r.toNat : Int) - 589815 : Int) : ℚ) / 13107 := by
  unfold decT
  push_cast
  ring

theorem decT_neg_iff (r : U16) : decT r < 0 ↔ r.toNat ≤ 16851 := by
  rw [decT_eq_div, div_lt_iff₀ (by norm_num), zero_mul, Int.cast_lt_zero]
  omega

/-- The numerator is an integer and never zero, as 589815 is no multiple of 35; so no temperature is near zero (R137,
R139). -/
theorem one_div_le_abs_decT (r : U16) : 1 / 13107 ≤ |decT r| := by
  have hnum : 1 ≤ |35 * (r.toNat : Int) - 589815| := Int.one_le_abs (by omega)
  rw [decT_eq_div, abs_div, abs_of_pos (by norm_num : (0 : ℚ) < 13107)]
  gcongr
  exact_mod_cast hnum

theorem decT_ne_zero (r : U16) : decT r ≠ 0 :=
  abs_pos.1 (lt_of_lt_of_le (by norm_num) (one_div_le_abs_decT r))

/-- Temperature grows by 35/13107 a count (R137). -/
theorem decT_sub (r r' : U16) : decT r' - decT r = (35 / 13107 : ℚ) * ((r'.toNat : ℚ) - (r.toNat : ℚ)) := by
  unfold decT
  ring

/-- Settles O22: the formula, its bounds and sign, its growth, and its value at the points the rule lists. -/
theorem temperatureFollowsTheFormula : Obligations.TemperatureFollowsTheFormula := by
  refine ⟨fun r => ⟨rfl, decT_ne_zero r, decT_neg_iff r, decT_range r⟩, decT_sub, ?_⟩
  norm_num [decT]

end Sys2Proof.Machine
end

section
/-! The binary32 image (R139, D6): the grid of the finite values, the significand `toFloat` rounds to, and what follows
for integers and for the temperatures. -/

namespace Sys2Proof.Machine

/-! ### The values of the images -/

/-- The next magnitude is one unit in the last place further, also across a change of the exponent (G3). -/
theorem sigOf_mul_expOf_succ (M : Nat) :
    sigOf (M + 1) * 2 ^ expOf (M + 1) = sigOf M * 2 ^ expOf M + 2 ^ expOf M := by
  rcases (by omega : (M + 1) / 2 ^ 23 = M / 2 ^ 23 ∨ (M + 1) / 2 ^ 23 = M / 2 ^ 23 + 1 ∧ M % 2 ^ 23 = 2 ^ 23 - 1 ∧
    (M + 1) % 2 ^ 23 = 0) with hsame | ⟨hcarry, hfull, hzero⟩
  · have hexp : expOf (M + 1) = expOf M := by rw [expOf, expOf, hsame]
    have hsig : sigOf (M + 1) = sigOf M + 1 := by
      unfold sigOf
      split_ifs <;> omega
    rw [hexp, hsig, Nat.add_mul, Nat.one_mul]
  · rcases Nat.eq_zero_or_pos (M / 2 ^ 23) with h0 | hpos
    · obtain rfl : M = 2 ^ 23 - 1 := by omega
      decide
    · have hexp : expOf (M + 1) = expOf M + 1 := by unfold expOf; omega
      have hsig : sigOf (M + 1) = 2 ^ 23 := by unfold sigOf; split_ifs <;> omega
      have hsig' : sigOf M + 1 = 2 ^ 24 := by unfold sigOf; split_ifs <;> omega
      calc sigOf (M + 1) * 2 ^ expOf (M + 1) = 2 ^ 24 * 2 ^ expOf M := by rw [hexp, hsig]; ring
        _ = sigOf M * 2 ^ expOf M + 2 ^ expOf M := by rw [← hsig']; ring

/-- Magnitudes are ordered as their values (G3). -/
theorem sigOf_mul_expOf_strictMono : StrictMono fun M => sigOf M * 2 ^ expOf M := by
  refine strictMono_nat_of_lt_succ fun M => ?_
  rw [sigOf_mul_expOf_succ]
  exact Nat.lt_add_of_pos_right (by positivity)

/-- Every image is a sign and a magnitude, and its value is the magnitude's with that sign (G3). -/
theorem exists_sign_mag_value (v : BitVec 32) :
    ∃ (b : Bool) (M : Nat), v = BitVec.ofNat 32 ((if b then 2 ^ 31 else 0) + M) ∧
      binary32Value v = (if b then -1 else 1) * ((sigOf M : ℚ) * 2 ^ ((expOf M : Int) - 150)) := by
  obtain ⟨b, M, hM, rfl⟩ := exists_sign_mag v
  exact ⟨b, M, rfl, binary32Value_ofNat b M hM⟩

/-- A magnitude's value is a whole number of units of `2^(-150)`. -/
theorem scaled_significand (M : Nat) :
    (sigOf M : ℚ) * 2 ^ ((expOf M : Int) - 150) = ((sigOf M * 2 ^ expOf M : Nat) : ℚ) / 2 ^ 150 := by
  rw [zpow_sub₀ (by norm_num), zpow_natCast]
  push_cast
  rw [mul_div_assoc]
  rfl

/-- Only the two zeros share a value. -/
theorem eq_of_binary32Value_eq {v w : BitVec 32} (h : binary32Value v = binary32Value w) (hw : binary32Value w ≠ 0) :
    v = w := by
  obtain ⟨b, M, rfl, hv⟩ := exists_sign_mag_value v
  obtain ⟨c, N, rfl, hw'⟩ := exists_sign_mag_value w
  rw [hv, hw', scaled_significand, scaled_significand, ← mul_div_assoc, ← mul_div_assoc,
    div_left_inj' (by norm_num)] at h
  rw [hw', scaled_significand] at hw
  have hN : (0 : ℚ) < (sigOf N * 2 ^ expOf N : Nat) := by
    refine lt_of_le_of_ne (Nat.cast_nonneg _) fun hz => hw ?_
    rw [← hz, zero_div, mul_zero]
  have hM : (0 : ℚ) ≤ (sigOf M * 2 ^ expOf M : Nat) := Nat.cast_nonneg _
  have hbc : b = c := by
    cases b <;> cases c
    case false.true | true.false =>
      simp only [Bool.false_eq_true, if_false, if_true] at h
      linarith
    all_goals rfl
  subst hbc
  have hMN : M = N := by
    apply sigOf_mul_expOf_strictMono.injective
    have hsign : (if b then -1 else 1 : ℚ) ≠ 0 := by cases b <;> norm_num
    exact_mod_cast mul_left_cancel₀ hsign h
  rw [hMN]

/-- In the scale of an exponent an image is a whole number of units in the last place, or it lies below the binade. -/
theorem binary32Value_grid (v : BitVec 32) (e : Int) :
    (∃ k : Int, binary32Value v = k * 2 ^ (e - 23)) ∨ -126 < e ∧ |binary32Value v| < 2 ^ e := by
  obtain ⟨b, M, -, hv⟩ := exists_sign_mag_value v
  have hexp : 1 ≤ expOf M := le_max_right _ _
  rw [hv]
  rcases le_or_gt e ((expOf M : Int) - 127) with hle | hgt
  · obtain ⟨n, hn⟩ := Int.eq_ofNat_of_zero_le (sub_nonneg.2 hle)
    refine .inl ⟨(if b then -1 else 1) * (sigOf M * 2 ^ n), ?_⟩
    have hsplit : (expOf M : Int) - 150 = n + (e - 23) := by omega
    rw [hsplit, zpow_add₀ (by norm_num), zpow_natCast]
    push_cast
    ring
  · refine .inr ⟨by omega, ?_⟩
    have hsig : (sigOf M : ℚ) < 2 ^ 24 := by exact_mod_cast sigOf_lt M
    have hsign : |(if b then -1 else 1 : ℚ)| = 1 := by cases b <;> simp
    calc |(if b then -1 else 1) * ((sigOf M : ℚ) * 2 ^ ((expOf M : Int) - 150))|
        = sigOf M * 2 ^ ((expOf M : Int) - 150) := by rw [abs_mul, hsign, one_mul, abs_of_nonneg (by positivity)]
      _ < 2 ^ 24 * 2 ^ ((expOf M : Int) - 150) := by gcongr
      _ = 2 ^ ((24 : Nat) + ((expOf M : Int) - 150)) := by rw [zpow_add₀ (by norm_num), zpow_natCast]
      _ ≤ 2 ^ e := zpow_le_zpow_right₀ (by norm_num) (by omega)

/-! ### The significand of the image -/

/-- `m` is the significand a positive `x` rounds to at the exponent `e`: nearest in units of the last place, ties to
even, and normal unless the exponent is the least (R139, G3). -/
structure RoundsTo (x : ℚ) (e : Int) (m : Nat) : Prop where
  normal_or_least : e = -126 ∨ 2 ^ 23 ≤ m ∧ (2 : ℚ) ^ e ≤ x
  nearest : ∀ k : Int, |m * 2 ^ (e - 23) - x| ≤ |k * 2 ^ (e - 23) - x|
  even_of_tie : ∀ k : Int, |m * 2 ^ (e - 23) - x| = |k * 2 ^ (e - 23) - x| → k ≠ m → m % 2 = 0

/-- A value below the binade is farther from `x` than the binade's least value is. -/
theorem RoundsTo.lt_of_below {x y : ℚ} {e : Int} {m : Nat} (h : RoundsTo x e m) (he : -126 < e) (hy : |y| < 2 ^ e) :
    |m * 2 ^ (e - 23) - x| < |y - x| := by
  obtain hleast | ⟨-, hx⟩ := h.normal_or_least
  · omega
  · have hbinade : ((2 ^ 23 : Int) : ℚ) * 2 ^ (e - 23) = 2 ^ e := by
      rw [zpow_sub₀ (by norm_num)]
      norm_num
      ring
    have hyx : y < x := (le_abs_self y).trans_lt (hy.trans_le hx)
    calc |m * 2 ^ (e - 23) - x| ≤ |2 ^ e - x| := hbinade ▸ h.nearest (2 ^ 23)
      _ = x - 2 ^ e := by rw [abs_sub_comm, abs_of_nonneg (sub_nonneg.2 hx)]
      _ < x - y := sub_lt_sub_left ((le_abs_self y).trans_lt hy) x
      _ = |y - x| := by rw [abs_sub_comm, abs_of_pos (sub_pos.2 hyx)]

/-- Nearest, ties to even, among all the values of the grid. -/
theorem RoundsTo.nearest_on_grid {x y : ℚ} {e : Int} {m : Nat} (h : RoundsTo x e m)
    (hy : (∃ k : Int, y = k * 2 ^ (e - 23)) ∨ -126 < e ∧ |y| < 2 ^ e) :
    |m * 2 ^ (e - 23) - x| ≤ |y - x| ∧
      (|m * 2 ^ (e - 23) - x| = |y - x| → y ≠ m * 2 ^ (e - 23) → m % 2 = 0) := by
  obtain ⟨k, rfl⟩ | ⟨he, hlt⟩ := hy
  · refine ⟨h.nearest k, fun htie hne => h.even_of_tie k htie fun hk => hne ?_⟩
    rw [hk, Int.cast_natCast]
  · have hfar := h.lt_of_below he hlt
    exact ⟨hfar.le, fun htie => absurd htie hfar.ne⟩

/-- `binary32Magnitude` packs the significand the fraction rounds to, below infinity. -/
theorem binary32Magnitude_roundsTo {num den : Nat} (hn : 0 < num) (hd : 0 < den)
    (hmax : (num : ℚ) / den ≤ binary32Max) :
    ∃ (e : Int) (m : Nat), RoundsTo (num / den) e m ∧ binary32Magnitude num den < 255 * 2 ^ 23 ∧
      binary32Magnitude num den % 2 = m % 2 ∧
      (sigOf (binary32Magnitude num den) : ℚ) * 2 ^ ((expOf (binary32Magnitude num den) : Int) - 150) =
        m * 2 ^ (e - 23) := by
  obtain ⟨e, m, hM, he, hm, hfin, hnorm, hspec⟩ := binary32Magnitude_spec num den hn hd hmax
  have unscale (y : ℚ) : |y * 2 ^ (e - 23) - num / den| = |y - num / den * 2 ^ (23 - e)| * 2 ^ (e - 23) := by
    have hunit : (0 : ℚ) < 2 ^ (e - 23) := by positivity
    have hinv : (2 : ℚ) ^ (23 - e) * 2 ^ (e - 23) = 1 := by
      rw [← zpow_add₀ (by norm_num), sub_add_sub_cancel, sub_self, zpow_zero]
    calc |y * 2 ^ (e - 23) - num / den| = |(y - num / den * 2 ^ (23 - e)) * 2 ^ (e - 23)| := by
          rw [sub_mul, mul_assoc, hinv, mul_one]
      _ = _ := by rw [abs_mul, abs_of_pos hunit]
  refine ⟨e, m, ⟨hnorm, fun k => ?_, fun k htie => (hspec k).2 ?_⟩, hM ▸ hfin, by omega, ?_⟩
  · rw [unscale, unscale]
    exact mul_le_mul_of_nonneg_right (hspec k).1 (by positivity)
  · rw [unscale, unscale] at htie
    exact mul_right_cancel₀ (by positivity) htie
  · rw [hM]
    exact mag_value e m he hm (hnorm.symm.imp_left And.left)

/-- The sign factor of a rational, +1 at zero. -/
def signFactor (q : ℚ) : ℚ := if q < 0 then -1 else 1

theorem signFactor_mul_self (q : ℚ) : signFactor q * signFactor q = 1 := by
  unfold signFactor; split_ifs <;> norm_num

theorem signFactor_mul_abs (q : ℚ) : signFactor q * |q| = q := by
  unfold signFactor
  split_ifs with h
  · rw [abs_of_neg h]; ring
  · rw [abs_of_nonneg (not_lt.1 h), one_mul]

/-- A magnitude below that of infinity makes a finite image (G3). -/
theorem binary32Finite_ofNat (b : Bool) {M : Nat} (h : M < 255 * 2 ^ 23) :
    binary32Finite (BitVec.ofNat 32 ((if b then 2 ^ 31 else 0) + M)) := by
  unfold binary32Finite
  rw [ne_eq, BitVec.toNat_eq, BitVec.extractLsb'_toNat, BitVec.toNat_ofNat, Nat.shiftRight_eq_div_pow]
  cases b <;> simp <;> omega

/-- The sign does not reach the last bit of an image. -/
theorem getLsbD_zero_ofNat (b : Bool) {M : Nat} (h : M % 2 = 0) :
    (BitVec.ofNat 32 ((if b then 2 ^ 31 else 0) + M)).getLsbD 0 = false := by
  rw [BitVec.getLsbD_ofNat, Nat.testBit_zero]
  cases b <;> simp <;> omega

theorem toFloat_of_ne_zero {q : ℚ} (h0 : q ≠ 0) : toFloat q =
    BitVec.ofNat 32 ((if decide (q < 0) then 2 ^ 31 else 0) + binary32Magnitude q.num.natAbs q.den) := by
  unfold toFloat
  rw [if_neg (Rat.num_ne_zero.2 h0)]
  simp only [Rat.num_neg, decide_eq_true_eq]

/-- The image of a nonzero rational: finite, with its sign, and with the significand its size rounds to. -/
theorem toFloat_roundsTo {q : ℚ} (h0 : q ≠ 0) (hq : |q| ≤ binary32Max) :
    ∃ (e : Int) (m : Nat), RoundsTo |q| e m ∧ binary32Finite (toFloat q) ∧
      binary32Value (toFloat q) = signFactor q * (m * 2 ^ (e - 23)) ∧
      (m % 2 = 0 → (toFloat q).getLsbD 0 = false) := by
  have habs : |q| = (q.num.natAbs : ℚ) / q.den := by
    rw [Rat.abs_def, Rat.divInt_eq_div]
    rfl
  rw [habs] at hq ⊢
  obtain ⟨e, m, hround, hfin, hparity, hvalue⟩ :=
    binary32Magnitude_roundsTo (Int.natAbs_pos.2 (Rat.num_ne_zero.2 h0)) q.den_pos hq
  rw [toFloat_of_ne_zero h0]
  refine ⟨e, m, hround, binary32Finite_ofNat _ hfin, ?_, fun hm => getLsbD_zero_ofNat _ (hparity.trans hm)⟩
  rw [binary32Value_ofNat _ _ (hfin.trans (by norm_num)), hvalue]
  simp only [signFactor, decide_eq_true_eq]

/-! ### The rounding of `toFloat` -/

theorem abs_signFactor_mul (q y : ℚ) : |signFactor q * y| = |y| := by
  unfold signFactor
  split_ifs
  · rw [neg_one_mul, abs_neg]
  · rw [one_mul]

/-- The distance from `q` is that of the value with the sign of `q` taken off, from the size of `q`. -/
theorem abs_sub_eq_signFactor (q y : ℚ) : |y - q| = |(signFactor q * y - |q|)| := by
  rw [← abs_signFactor_mul q (signFactor q * y - |q|), mul_sub, ← mul_assoc, signFactor_mul_self, one_mul,
    signFactor_mul_abs]

/-- A value with the sign of `q` taken off is on the same grid. -/
theorem signFactor_mul_grid (q : ℚ) (v : BitVec 32) (e : Int) :
    (∃ k : Int, signFactor q * binary32Value v = k * 2 ^ (e - 23)) ∨
      -126 < e ∧ |signFactor q * binary32Value v| < 2 ^ e := by
  rw [abs_signFactor_mul]
  refine (binary32Value_grid v e).imp_left fun ⟨k, hk⟩ => ?_
  rw [hk, signFactor]
  split_ifs
  · exact ⟨-k, by push_cast; ring⟩
  · exact ⟨k, by rw [one_mul]⟩

/-- Zero is the image of zero. -/
theorem binary32Value_zero : binary32Value 0#32 = 0 := by decide +kernel

/-- `toFloat` rounds once, to nearest, ties to even (R139). -/
theorem toFloat_nearest {q : ℚ} (hq : |q| ≤ binary32Max) : NearestTiesToEven q (toFloat q) := by
  rcases eq_or_ne q 0 with rfl | h0
  · have hzero : toFloat 0 = 0#32 := if_pos rfl
    rw [hzero, NearestTiesToEven, binary32Value_zero, sub_zero, abs_zero]
    exact ⟨by unfold binary32Finite; decide, fun v _ => ⟨abs_nonneg _, fun _ _ => BitVec.getLsbD_zero⟩⟩
  · obtain ⟨e, m, hround, hfin, hvalue, heven⟩ := toFloat_roundsTo h0 hq
    refine ⟨hfin, fun v _ => ?_⟩
    obtain ⟨hle, htie⟩ := hround.nearest_on_grid (signFactor_mul_grid q v e)
    have hw : signFactor q * binary32Value (toFloat q) = m * 2 ^ (e - 23) := by
      rw [hvalue, ← mul_assoc, signFactor_mul_self, one_mul]
    rw [abs_sub_eq_signFactor q (binary32Value (toFloat q)), abs_sub_eq_signFactor q (binary32Value v), hw]
    refine ⟨hle, fun heq hne => heven (htie heq fun hv => hne ?_)⟩
    have hsign : signFactor q ≠ 0 := left_ne_zero_of_mul_eq_one (signFactor_mul_self q)
    exact mul_left_cancel₀ hsign (hv.trans hw.symm)

/-- Every integer below `2^24` in size has an exact image (G3). -/
theorem toFloat_exact_of_int (z : Int) (hz : |z| < 2 ^ 24) : binary32Value (toFloat z) = z := by
  rcases eq_or_ne z 0 with rfl | h0
  · exact binary32Value_zero
  · have hsize : |(z : ℚ)| < 2 ^ 24 := by exact_mod_cast hz
    obtain ⟨e, m, hround, -, hvalue, -⟩ :=
      toFloat_roundsTo (Int.cast_ne_zero.2 h0) (hsize.le.trans (by norm_num [binary32Max]))
    have he : e < 24 := by
      obtain rfl | ⟨-, hle⟩ := hround.normal_or_least
      · norm_num
      · exact (zpow_lt_zpow_iff_right₀ (by norm_num : (1 : ℚ) < 2)).1 (hle.trans_lt hsize)
    obtain ⟨n, hn⟩ := Int.eq_ofNat_of_zero_le (by omega : 0 ≤ 23 - e)
    have hgrid : ((|z| * 2 ^ n : Int) : ℚ) * 2 ^ (e - 23) = |(z : ℚ)| := by
      have hinv : e - 23 = -(n : Int) := by omega
      rw [hinv, zpow_neg, zpow_natCast]
      push_cast
      field_simp
    have hdist := hround.nearest (|z| * 2 ^ n)
    rw [hgrid, sub_self, abs_zero] at hdist
    rw [hvalue, sub_eq_zero.1 (abs_nonpos_iff.1 hdist), signFactor_mul_abs]

/-- A rational of at least the size of the least subnormal does not round to zero: that subnormal is nearer. -/
theorem binary32Value_toFloat_ne_zero {q : ℚ} (hq : |q| ≤ binary32Max) (hlow : 2 ^ (-149 : Int) ≤ |q|) :
    binary32Value (toFloat q) ≠ 0 := by
  have hunit : (0 : ℚ) < 2 ^ (-149 : Int) := by positivity
  obtain ⟨e, m, hround, -, hvalue, -⟩ := toFloat_roundsTo (abs_pos.1 (hunit.trans_le hlow)) hq
  intro hzero
  have hsign : signFactor q ≠ 0 := left_ne_zero_of_mul_eq_one (signFactor_mul_self q)
  have hm : (m : ℚ) * 2 ^ (e - 23) = 0 := (mul_eq_zero.1 (hvalue.symm.trans hzero)).resolve_left hsign
  have hm0 : m = 0 := by exact_mod_cast (mul_eq_zero.1 hm).resolve_right (by positivity)
  have he : e = -126 := hround.normal_or_least.resolve_right (by omega)
  have hnear := hround.nearest 1
  have hexp : (-126 : Int) - 23 = -149 := by norm_num
  rw [hm, he, hexp, zero_sub, abs_neg, abs_abs, Int.cast_one, one_mul, abs_sub_comm,
    abs_of_nonneg (sub_nonneg.2 hlow)] at hnear
  linarith

/-! ### The images of the decoded values -/

/-- Settles O21: the raw value is an integer below `2^24`. -/
theorem co2IsRawAndItsImageExact : Obligations.Co2IsRawAndItsImageExact := by
  refine ⟨fun r => ⟨rfl, ?_⟩, by decide +kernel, by decide +kernel, by decide +kernel⟩
  have hr := r.isLt
  have hexact := toFloat_exact_of_int r.toNat (by rw [Nat.abs_cast]; omega)
  exact_mod_cast hexact

theorem abs_decT_le (r : U16) : |decT r| ≤ 130 := by
  obtain ⟨hlo, hhi⟩ := decT_range r
  exact abs_le.2 ⟨by linarith, hhi⟩

/-- The denominator 13107 is odd and prime to 35, so a temperature on a binary grid is an integer. -/
theorem decT_isInt_of_binary {r : U16} {k : Int} (h : 2 * decT r = k * 2 ^ (-149 : Int)) : ∃ z : Int, decT r = z := by
  have hcross : 2 ^ 150 * (35 * (r.toNat : Int) - 589815) = 13107 * k := by
    rw [decT_eq_div, zpow_neg, ← div_eq_mul_inv, ← mul_div_assoc, div_eq_div_iff (by norm_num) (by positivity)] at h
    apply Int.cast_injective (α := ℚ)
    push_cast at h ⊢
    linarith
  have hcoprime : IsCoprime (13107 : Int) (2 ^ 150) := by norm_num
  obtain ⟨z, hz⟩ := hcoprime.dvd_of_dvd_mul_left (Dvd.intro k hcross.symm)
  refine ⟨z, ?_⟩
  rw [decT_eq_div, hz]
  push_cast
  ring

/-- No tie arises: an image as near to a temperature as its own has the same value. A value on the other side would put
the temperature halfway between two images, where it is an integer and so exact. -/
theorem decT_image_no_tie {r : U16} {v : BitVec 32}
    (htie : |binary32Value (toFloat (decT r)) - decT r| = |binary32Value v - decT r|) :
    binary32Value v = binary32Value (toFloat (decT r)) := by
  have on_grid (w : BitVec 32) : ∃ k : Int, binary32Value w = k * 2 ^ (-149 : Int) :=
    (binary32Value_grid w (-126)).resolve_right fun h => absurd h.1 (lt_irrefl _)
  obtain hsame | hmirror := abs_eq_abs.1 htie
  · exact (sub_left_inj.1 hsame).symm
  · obtain ⟨j, hj⟩ := on_grid v
    obtain ⟨k, hk⟩ := on_grid (toFloat (decT r))
    obtain ⟨z, hz⟩ : ∃ z : Int, decT r = z :=
      decT_isInt_of_binary (k := j + k) (by push_cast; rw [add_mul, ← hj, ← hk]; linarith)
    have hexact : binary32Value (toFloat (decT r)) = decT r := by
      rw [hz]
      refine toFloat_exact_of_int z ?_
      have hle : |z| ≤ 130 := by exact_mod_cast hz ▸ abs_decT_le r
      exact hle.trans_lt (by norm_num)
    linarith

/-- Settles O23: `toFloat` is nearest with ties to even; a temperature makes no tie, and its image is not one of the two
zeros, so no other image has its value. -/
theorem temperatureImageIsRoundedOnce : Obligations.TemperatureImageIsRoundedOnce := by
  refine ⟨fun q hq => toFloat_nearest hq, fun r => ?_⟩
  have hmax : |decT r| ≤ binary32Max := (abs_decT_le r).trans (by norm_num [binary32Max])
  have hlow : 2 ^ (-149 : Int) ≤ |decT r| := le_trans (by norm_num) (one_div_le_abs_decT r)
  have hnearest := toFloat_nearest hmax
  refine ⟨hnearest, fun v hv hne => ?_⟩
  obtain ⟨-, hnear⟩ := hnearest
  refine lt_of_le_of_ne (hnear v hv).1 fun htie => hne ?_
  exact eq_of_binary32Value_eq (decT_image_no_tie htie) (binary32Value_toFloat_ne_zero hmax hlow)

end Sys2Proof.Machine
end

section
/-! The host operations (44_operations): what is accepted and what is refused, the column of each operation where its
transport calls return, and the trace of a program as the concatenation of its operations' traces. -/

namespace Sys2Proof.Machine

/-! ### The trace of a program -/

/-- One operation more keeps the trace a concatenation (R157). -/
theorem State.ProgramTrace.append_operation {s t : State} {l : List Event} (h : s.ProgramTrace)
    (haddr : t.busAddress = s.busAddress) (hl : OperationTrace s.busAddress l) (ht : t.trace = s.trace ++ l) :
    t.ProgramTrace := by
  obtain ⟨ls, hls, htrace⟩ := h
  refine ⟨ls ++ [l], ?_, ?_⟩
  · rw [haddr, List.forall_mem_append, List.forall_mem_singleton]
    exact ⟨hls, hl⟩
  · rw [ht, htrace, List.flatten_append, List.flatten_singleton]

/-- Settles O58: a step of an Idle block does nothing, or adds the trace of the one operation it runs. -/
theorem programTraceIsConcatenation : Obligations.ProgramTraceIsConcatenation := by
  intro s t hi hprog h
  refine ⟨step_keeps_idle hi h, ?_⟩
  obtain rfl | ⟨i, rest, hf, hexec⟩ := step_cases_of_idle hi h
  · exact hprog
  · obtain ⟨-, -, haddr, -, ⟨l, hl, ht⟩, -⟩ := operationFrame i _ t hf hexec
    exact hprog.append_operation haddr hl ht

/-! ### The columns of the operations -/

/-- Settles O27: the closed form of INITIALIZE where its two calls return. -/
theorem initializeRunsItsColumn : Obligations.InitializeRunsItsColumn := by
  intro s hi hr
  rw [exec, execOpInitialize_of_idle hi, if_pos hr, initTrace, TxStatus.isErr_eq_decide]

/-- Settles O28: the closed form of SELF_TEST where its three calls return. -/
theorem selfTestRunsItsColumn : Obligations.SelfTestRunsItsColumn := by
  intro s hi hr
  rw [exec, execOpSelfTest_of_idle hi, if_pos hr, selfTestTrace, selfTestResponse, TxStatus.isErr_eq_decide, byteCount]

/-- Settles O29: the closed form of READ_MEASUREMENT where its five calls return. -/
theorem readMeasurementRunsItsColumn : Obligations.ReadMeasurementRunsItsColumn := by
  intro s hi hr
  rw [exec, execOpReadMeasurement_of_idle hi, if_pos hr, measureTrace]

/-! ### Acceptance and refusal -/

/-- Settles O31: `State.accept` as it is written. -/
theorem acceptanceSetsTheSequencer : Obligations.AcceptanceSetsTheSequencer := fun _ _ _ => rfl

/-- Settles O32: each of the three operations looks at the phase first. -/
theorem operationsRefusedWhileBusy : Obligations.OperationsRefusedWhileBusy := fun _ _ => exec_op_of_busy

section
variable {s : State} {q : HostRequest} {rest : List HostRequest}

/-- An Idle block runs the instruction the host presents (R150). -/
theorem step_of_presented {i : Instr} {bs : List Byte} (hi : s.phase = .idle) (hq : s.requests = q :: rest)
    (hd : decodeRequest q = .instr i bs) : step s = exec i { s with requests := rest } := by
  simp only [step, State.fetch, hi, hq, hd]

/-- An Idle block refuses what the decoder rejects (R161). -/
theorem step_of_rejected {why : DecodeError} (hi : s.phase = .idle) (hq : s.requests = q :: rest)
    (hd : decodeRequest q = .reject why) : step s = .refused (refusalOf why) := by
  simp only [step, State.fetch, hi, hq, hd]

end

/-- Settles O46: `step_of_presented`; every instruction is well-formed. -/
theorem stepRunsThePresentedInstruction : Obligations.StepRunsThePresentedInstruction :=
  fun _ _ _ _ _ hi hq hd _ => step_of_presented hi hq hd

theorem decodeRequest_command (w : U16) :
    decodeRequest (.command w) = (decodeCommand w).elim (.reject (.notACommand w)) (fun c => .instr c.instr []) :=
  decode_cmd16_word w []

/-- An Idle block refuses every command word: two are issued nowhere, and the others stand at a Busy step (R113,
R150). -/
theorem exec_command_refused_of_idle (c : Command) {s : State} (hi : s.phase = .idle) :
    ∃ r, exec c.instr s = .refused r := by
  cases c with
  | getStatus => exact ⟨.commandNotIssued, rfl⟩
  | startPeriodicMeasuring => exact ⟨.commandNotIssued, rfl⟩
  | readMeasurement => exact ⟨_, State.issue_refused (.inl hi)⟩
  | stopPeriodicMeasuring => exact ⟨_, State.issue_refused (.inl hi)⟩
  | measureSingleShot => exact ⟨_, State.issue_refused (.inl hi)⟩
  | performSelfTest => exact ⟨_, State.issue_refused (.inl hi)⟩

/-- Settles O49: the decoder rejects the reserved code and a word that is no command; a command is refused when it is
run at an Idle block. -/
theorem reservedCodeAndCommandAttemptsRefused : Obligations.ReservedCodeAndCommandAttemptsRefused := by
  intro s rest hi
  refine ⟨fun hq => step_of_rejected hi hq (decode_op_code 0b11#2 []), fun w hq => ?_⟩
  have hd := decodeRequest_command w
  cases hc : decodeCommand w with
  | none =>
    rw [hc, Option.elim_none] at hd
    exact ⟨.notACommand w, step_of_rejected hi hq hd⟩
  | some c =>
    rw [hc, Option.elim_some] at hd
    rw [step_of_presented hi hq hd]
    exact exec_command_refused_of_idle c hi

end Sys2Proof.Machine
end

section
/-! The errors (60_exceptions): which part of a response a failed send reaches, what raising an error does, and the
block to which nothing is presented. -/

namespace Sys2Proof.Machine

/-! ### The txe field of a response -/

theorem txeTwo_getLsbD_zero (e0 e1 : TxStatus) : (txeTwo e0 e1).getLsbD 0 = decide (e0 = .err) := by
  rw [txeTwo, setBit_getLsbD_of_ne _ _ (by decide), setBit_getLsbD_self _ _ (by decide), e0.isErr_eq_decide]

theorem txeTwo_getLsbD_one (e0 e1 : TxStatus) : (txeTwo e0 e1).getLsbD 1 = decide (e1 = .err) := by
  rw [txeTwo, setBit_getLsbD_self _ _ (by decide), e1.isErr_eq_decide]

/-- The record of one send as a field: bit 1 stays 0 (R72). -/
theorem txeField_eq_setBit (b : Bool) : txeField b = setBit 0#2 0 b := by cases b <;> rfl

theorem txeField_getLsbD_zero (e : TxStatus) : (txeField e.isErr).getLsbD 0 = decide (e = .err) := by
  rw [txeField_eq_setBit, setBit_getLsbD_self _ _ (by decide), e.isErr_eq_decide]

theorem txeField_getLsbD_one (b : Bool) : (txeField b).getLsbD 1 = false := by
  rw [txeField_eq_setBit, setBit_getLsbD_of_ne _ _ (by decide), BitVec.getLsbD_zero]

/-- Whatever the parse gave, the response carries the record as it stands (R171). -/
theorem measureResponse_port_txe (rx : List Byte) (x : BitVec 2) : (measureResponse rx x).port.txe = x := by
  rw [measureResponse]
  cases parseFrame rx with
  | values => rfl
  | shortRead => rfl
  | checksumMismatch => rfl

/-- Another record in the image is the image of the response with that record: nothing else depends on it. -/
theorem measureResponse_port_withTxe (rx : List Byte) (x y : BitVec 2) :
    { (measureResponse rx x).port with txe := y } = (measureResponse rx y).port := by
  rw [measureResponse, measureResponse]
  cases parseFrame rx with
  | values => rfl
  | shortRead => rfl
  | checksumMismatch => rfl

theorem selfTestResponse_port_txe (rx : List Byte) (b : Bool) : (selfTestResponse rx b).port.txe = txeField b := by
  rw [selfTestResponse]
  split
  · rfl
  · rfl

theorem selfTestResponse_port_withTxe (rx : List Byte) (b c : Bool) :
    { (selfTestResponse rx b).port with txe := txeField c } = (selfTestResponse rx c).port := by
  rw [selfTestResponse, selfTestResponse]
  split
  · rfl
  · rfl

/-- Settles O36: with the record put to zero each response is the one of an operation without a send failure, and the
field itself is the record. -/
theorem sendFailureChangesOnlyTxe : Obligations.SendFailureChangesOnlyTxe := by
  intro rx e0 e1 e0' e1'
  have hself (b : Bool) : { (selfTestResponse rx b).port with txe := 0#2 } = (selfTestResponse rx false).port :=
    selfTestResponse_port_withTxe rx b false
  rw [measureResponse_port_withTxe, measureResponse_port_withTxe, measureResponse_port_txe, hself, hself,
    selfTestResponse_port_txe]
  exact ⟨rfl, txeTwo_getLsbD_zero e0 e1, txeTwo_getLsbD_one e0 e1, rfl, txeField_getLsbD_zero e0,
    txeField_getLsbD_one _, rfl, txeField_getLsbD_zero e0, txeField_getLsbD_one _⟩

/-! ### Raising an error -/

/-- Raising an error ends the operation where it stands, with no further call: the failure response is the one event,
and the transients lose their meaning (R178, R179; log 3). -/
theorem State.raise_eq_ended (s : State) (e : OpError) : s.raise e = s.ended 0 0 0 [.resp (s.failure e)] :=
  s.respond_eq_ended (s.failure e)

/-- Settles O37: `State.raise_eq_ended` at each of the three errors. -/
theorem raiseRespondsAndGoesIdle : Obligations.RaiseRespondsAndGoesIdle := fun s =>
  ⟨fun k => s.raise_eq_ended (.shortRead k), fun m => s.raise_eq_ended (.checksumMismatch m),
    fun k => s.raise_eq_ended (.unexpectedResponseLength k)⟩

/-! ### Nothing presented -/

theorem State.fetch_nothing {s : State} (hi : s.phase = .idle) (hq : s.requests = []) : s.fetch = .nothing := by
  simp only [State.fetch, hi, hq]

/-- Settles O48: there is nothing to fetch. -/
theorem idleBlockWaitsForTheHost : Obligations.IdleBlockWaitsForTheHost := by
  intro s hi hq
  rw [step, State.fetch_nothing hi hq]

end Sys2Proof.Machine
end

section
/-! Reset and hazards (70_reset_and_hazards): a transport call that never returns, what the host presents while the block
is Busy, and the trace at reset. -/

namespace Sys2Proof.Machine

/-! ### A transport call that never returns -/

theorem State.callReturns_eq_false {s : State} (hr : s.transport.returnsLeft = some 0) : s.callReturns = false := by
  rw [State.callReturns, hr]
  rfl

theorem State.callsReturn_eq_false {s : State} {r c : Nat} (hr : s.transport.returnsLeft = some r) (hc : r < c) :
    ¬ s.callsReturn c = true := by
  rw [State.callsReturn, hr, decide_eq_true_eq]
  exact Nat.not_le_of_lt hc

/-- Settles O33: each closed form answers the fault where its calls do not all return. -/
theorem operationNeverEndsWhenACallNeverReturns : Obligations.OperationNeverEndsWhenACallNeverReturns := by
  intro s r hi hr
  refine ⟨fun hc => ?_, fun hc => ?_, fun hc => ?_⟩
  · rw [exec, execOpInitialize_of_idle hi, if_neg (State.callsReturn_eq_false hr hc)]
  · rw [exec, execOpSelfTest_of_idle hi, if_neg (State.callsReturn_eq_false hr hc)]
  · rw [exec, execOpReadMeasurement_of_idle hi, if_neg (State.callsReturn_eq_false hr hc)]

/-- A measurement whose last call alone never returns: the hypotheses of O33 are met, and the block is stuck. -/
theorem witness_last_call_never_returns :
    exec .opReadMeasurement
        { State.reset with transport := { statuses := [], answers := [], returnsLeft := some 4 } } =
      .fault .transportCallNeverReturns :=
  (operationNeverEndsWhenACallNeverReturns _ 4 rfl rfl).2.2 (by decide)

theorem SeqStep.isCall_of_mem {p : SeqStep} (h : p ∈ [.i0, .i1, .s0, .s1, .s2, .m0, .m1, .m2, .m3, .m4]) :
    p.isCall = true := by
  revert p
  decide

/-- Settles O45: a step at a transport call answers the fault where the call does not return. -/
theorem stepIsStuckWhenItsCallNeverReturns : Obligations.StepIsStuckWhenItsCallNeverReturns := by
  intro s hb hr hs
  have hcall : s.atCall = true := by simp [State.atCall, hb, SeqStep.isCall_of_mem hs]
  rw [step_of_busy hb, seqStep_of_atCall hcall, State.callReturns_eq_false hr]
  rfl

/-! ### What the host presents while the block is Busy -/

/-- The host is to present `qs` in the place of what it would have presented; nothing else changes (R207). -/
def State.withRequests (qs : List HostRequest) (s : State) : State := { s with requests := qs }

/-- Where a transport call leads does not depend on the host's list, which it carries along. -/
theorem State.called_withRequests (s : State) (qs : List HostRequest) :
    (s.withRequests qs).called = s.called.withRequests qs := by
  simp only [State.called, State.withRequests]
  cases s.work.step <;> rfl

/-- A step without a transport call does not depend on the host's list, which it carries along. -/
theorem State.localStep_withRequests {s : State} (qs : List HostRequest)
    (h : s.work.step ∈ [.i2, .s3, .m5, .m6, .m7]) :
    (s.withRequests qs).localStep = s.localStep.withRequests qs := by
  have hstep : (s.withRequests qs).work.step = s.work.step := rfl
  cases hs : s.work.step <;> rw [hs] at hstep
  case i2 => rw [State.localStep_i2 hs, State.localStep_i2 hstep]; rfl
  case s3 => rw [State.localStep_s3 hs, State.localStep_s3 hstep]; rfl
  case m5 =>
    rw [State.localStep_m5 hs, State.localStep_m5 hstep, apply_ite (State.withRequests qs)]
    rfl
  case m6 =>
    by_cases hm : s.work.frame.mismatch = 0#3
    · rw [State.localStep_m6_match hs hm, State.localStep_m6_match hstep hm, State.checkFields_eq, State.checkFields_eq]
      rfl
    · rw [State.localStep_m6_mismatch hs hm, State.localStep_m6_mismatch hstep hm]
      rfl
  case m7 => rw [State.localStep_m7 hs, State.localStep_m7 hstep]; rfl
  all_goals simp [hs] at h

/-- A step of a Busy block goes the same way under any list of the host (R207). -/
theorem step_withRequests_of_busy {s t : State} (qs : List HostRequest) (hb : s.phase = .busy) (h : step s = .next t) :
    step (s.withRequests qs) = .next (t.withRequests qs) := by
  have hb' : (s.withRequests qs).phase = .busy := hb
  cases hc : s.work.step.isCall with
  | true =>
    have hcall : s.atCall = true := by simp [State.atCall, hb, hc]
    have hcall' : (s.withRequests qs).atCall = true := hcall
    have hreturns : (s.withRequests qs).callReturns = s.callReturns := rfl
    rw [step_of_busy hb, seqStep_of_atCall hcall] at h
    rw [step_of_busy hb', seqStep_of_atCall hcall', hreturns, State.called_withRequests]
    split at h <;> cases h
    rw [if_pos ‹_›]
  | false =>
    have hlocal := SeqStep.isCall_eq_false.1 hc
    rw [step_of_local hb hlocal] at h
    cases h
    rw [step_of_local hb' hlocal, State.localStep_withRequests qs hlocal]

/-- Settles O50: `step_withRequests_of_busy`; with the block's own list in the place of the other it says that the list
is kept. -/
theorem busyBlockHoldsRequestsOff : Obligations.BusyBlockHoldsRequestsOff := by
  intro s t qs hb h
  refine ⟨?_, step_withRequests_of_busy qs hb h⟩
  have hself : t = t.withRequests s.requests :=
    Host.Outcome.next.inj (h.symm.trans (step_withRequests_of_busy s.requests hb h))
  rw [hself]
  rfl

/-! ### The trace at reset -/

/-- Settles O59: the concatenation of no operation traces. -/
theorem resetTraceIsConcatenation : Obligations.ResetTraceIsConcatenation :=
  ⟨rfl, [], fun _ hl => absurd hl List.not_mem_nil, rfl⟩

end Sys2Proof.Machine
end

section
/-! What the parse and the decoding give at the edges of their inputs: bytes past the ninth (R128), and the images of the
temperatures in the spec's table (95_test_vectors 2.4). -/

namespace Sys2Proof.Machine

/-! ### Bytes past the ninth -/

/-- The frame is that of the first nine bytes, and they are the same (R128). -/
theorem parseFrame_append {rx : List Byte} (extra : List Byte) (h : 9 ≤ rx.length) :
    parseFrame (rx ++ extra) = parseFrame rx := by
  obtain ⟨b0, b1, b2, b3, b4, b5, b6, b7, b8, rest, rfl⟩ := nine_bytes rx h
  simp only [List.cons_append, parseFrame_nine]

/-- The response looks at the received bytes through their parse only (R153). -/
theorem measureResponse_append {rx : List Byte} (extra : List Byte) (txe : BitVec 2) (h : 9 ≤ rx.length) :
    measureResponse (rx ++ extra) txe = measureResponse rx txe := by
  rw [measureResponse, measureResponse, parseFrame_append extra h]

/-- Settles O19: `parseFrame_append`, and the response follows the parse. -/
theorem excessBytesAreIgnored : Obligations.ExcessBytesAreIgnored :=
  fun _ extra txe h => ⟨parseFrame_append extra h, measureResponse_append extra txe h⟩

/-! ### The images of the table -/

/-- The image of a nonzero fraction in lowest terms is computed from its numerator and denominator (R139, D6). -/
theorem toFloat_of_eq_div {q : ℚ} (n : Int) (d : Nat) (hq : q = n / d) (hlowest : n ≠ 0 ∧ 0 < d ∧ n.natAbs.Coprime d) :
    toFloat q = BitVec.ofNat 32 ((if n < 0 then 2 ^ 31 else 0) + binary32Magnitude n.natAbs d) := by
  obtain ⟨hn, hd, hcop⟩ := hlowest
  have hnum : q.num = n := hq ▸ Rat.num_div_eq_of_coprime (Int.natCast_pos.2 hd) hcop
  have hden : q.den = d := Int.natCast_inj.1 (hq ▸ Rat.den_div_eq_of_coprime (Int.natCast_pos.2 hd) hcop)
  rw [toFloat, hnum, hden, if_neg hn]

/-- Settles O25: each row is the table's exact fraction in lowest terms, and the image of that fraction evaluated. -/
theorem temperatureImagesOfTheSpecTable : Obligations.TemperatureImagesOfTheSpecTable :=
  ⟨(toFloat_of_eq_div (-45) 1 (by norm_num [decT]) (by decide)).trans (by decide),
    (toFloat_of_eq_div (-589780) 13107 (by norm_num [decT]) (by decide)).trans (by decide),
    (toFloat_of_eq_div (-10) 4369 (by norm_num [decT]) (by decide)).trans (by decide),
    (toFloat_of_eq_div 5 13107 (by norm_num [decT]) (by decide)).trans (by decide),
    (toFloat_of_eq_div 557065 13107 (by norm_num [decT]) (by decide)).trans (by decide),
    (toFloat_of_eq_div 130 1 (by norm_num [decT]) (by decide)).trans (by decide)⟩

end Sys2Proof.Machine
end
